-- ==== Sys2Proof/Word.lean ====
section
/-!
DEFINITION. The word types of the block: every value is an unsigned bit vector of a stated width (00_scope.md R9).
-/

namespace Sys2Proof

/-- One byte: a register of the UART, a command byte, a byte of text (R29, R71). -/
abbrev Byte := BitVec 8

/-- A 16-bit address of the platform's I/O port space (R50). -/
abbrev Port := BitVec 16

/-- A port offset from `IOPORT`: 3 bits, eight register slots (R7, R76). -/
abbrev Offset := BitVec 3

/-- The select key of a bus transaction: DLAB in bit 4, the direction in bit 3, the offset in bits 2:0 (R76). -/
abbrev SelectKey := BitVec 5

end Sys2Proof
end

