-- ==== Sys2Proof/Config.lean ====
section
/-!
DEFINITION. What is fixed for a launch: the parameters of 00_scope.md R7, and the free values (constants with no body).
-/

namespace Sys2Proof

/-- What answers at `IOPORT`: the two device models of 10_state.md R44, and no device at all. -/
inductive DeviceModel where
  /-- The normative oracle model (R57). -/
  | oracle
  /-- The optional reference device model (R43). -/
  | reference
  /-- The device is absent or unmapped: the platform drops every write, and every read is a draw, as in the oracle model
  (R63, R173). -/
  | absent
  deriving DecidableEq, Repr

/-- The parameters a model takes as configuration fields, with the defaults of R7. They are fixed for a launch and no
step writes them (R42). `dlabWriteValue` is kept open as 90_conflicts.md C1 and U17 ask. -/
structure Config where
  /-- `DLAB_WRITE_VALUE`: the LCR value RESET step 1 writes. -/
  dlabWriteValue : Byte := 0x80#8
  /-- `LCR_FORMAT`: the line format RESET step 3 writes (D2). -/
  lcrFormat : Byte := 0x03#8
  /-- `DIVISOR`: the 16-bit baud divisor (D3). -/
  divisor : BitVec 16 := 0x0001#16
  /-- `NEWLINE_SEQ`: the bytes NEWLINE sends, any finite list (D5, R146). -/
  newlineSeq : List Byte := [0x0D#8, 0x0A#8]
  /-- `MAX_WRITE_LEN`: the longest operand of one WRITE, a limit on the commands a host writes (D7; log 35). -/
  maxWriteLen : BitVec 16 := 65535#16
  /-- Which device model of R44 is in force, or that no device answers (R173). The default is the normative one. -/
  device : DeviceModel := .oracle
  deriving DecidableEq, Repr

/-- `IOPORT`: the port base of the register block (R2, R20). -/
def Config.ioport : Port := 0x3F8#16

/-- `OFF_DATA`: the data register THR (R7). -/
def Config.offData : Offset := 0#3

/-- `OFF_DLL`: the divisor latch low byte (R7). -/
def Config.offDll : Offset := 0#3

/-- `OFF_DLM`: the divisor latch high byte (R7). -/
def Config.offDlm : Offset := 1#3

/-- `OFF_LCR`: the Line Control Register (R7). -/
def Config.offLcr : Offset := 3#3

/-- `OFF_LSR`: the Line Status Register (R7). -/
def Config.offLsr : Offset := 5#3

/-- `DLAB_MASK`: the divisor-latch-access bit of LCR (R7). -/
def Config.dlabMask : Byte := 0x80#8

/-- `THRE_MASK`: the "transmit holding register empty" bit of LSR (R7). -/
def Config.threMask : Byte := 0x20#8

/-- `UART_CLOCK` in Hz. Informative only: no rule reads it (R7). -/
def Config.uartClockHz : Nat := 1843200

/-- FREE VALUE: what the `n`-th draw of an LSR read returns when no answer is listed in the state (R57, R63; log 5).
No body: any byte, under no law. -/
opaque Config.freeLsr : Nat → Byte

/-- FREE VALUE: what `cur` holds once a command has completed, where R23 calls it undefined (log 9). -/
opaque Config.freeCur : Nat → Byte

/-- FREE VALUE: whether an enabled drain step of the device is taken before the next step of the others (R177: in any
order; log 4). -/
opaque Config.freeDrain : Nat → Bool

end Sys2Proof
end

