-- ==== Sys2Proof/Syntax.lean ====
section
/-!
DEFINITION. The instructions: one constructor per row of spec/opcode_table.json, at the two encoded levels of
30_encoding.md R70, and the pseudo-instructions of R82.
-/

namespace Sys2Proof

/-- The two encoded levels (30_encoding.md): what the host asks of the block, and what the block issues on the port
bus. -/
inductive Level where
  | command
  | bus
  deriving DecidableEq, Repr

/-- The four host commands (R72) and the five bus transactions (R77). A bus transaction carries the byte it writes, as
in the trace syntax of R81 (`WR_LCR v`); where the sequencer takes that byte from is R79. -/
inductive Instr where
  /-- `RESET` (R121). -/
  | reset
  /-- `WRITE_BYTE b` (R142). -/
  | writeByte (b : Byte)
  /-- `WRITE s` (R145). -/
  | write (bytes : List Byte)
  /-- `NEWLINE` (R146). -/
  | newline
  /-- `WR_LCR v` (R101). -/
  | wrLcr (v : Byte)
  /-- `WR_DLL v` (R102). -/
  | wrDll (v : Byte)
  /-- `WR_DLM v` (R103). -/
  | wrDlm (v : Byte)
  /-- `WR_THR v` (R104). -/
  | wrThr (v : Byte)
  /-- `RD_LSR` (R105). -/
  | rdLsr
  deriving DecidableEq, Repr

/-- The level an instruction is encoded at (R70). -/
def Instr.level : Instr → Level
  | .reset | .writeByte _ | .write _ | .newline => .command
  | .wrLcr _ | .wrDll _ | .wrDlm _ | .wrThr _ | .rdLsr => .bus

/-- The registers the device decodes (the rows of R77, by mnemonic). -/
inductive Select where
  | wrThr
  | wrDll
  | wrDlm
  | wrLcr
  | rdLsr
  deriving DecidableEq, Repr

/-- The pseudo-instructions (R82). -/
inductive Pseudo where
  | init
  | putc (b : Byte)
  | puts (bytes : List Byte)
  | putln (bytes : List Byte)
  deriving DecidableEq, Repr

end Sys2Proof
end

