-- ==== Sys2Proof/WellFormed.lean ====
section
/-!
DEFINITION. Which instructions have an encoding, and which configurations a launch admits.
-/

namespace Sys2Proof

/-- An instruction is well formed if its operands fit its encoding: a WRITE carries at most 65535 bytes (R71, R73).
Every other operand is a byte and always fits. -/
def Instr.wellFormed : Instr → Bool
  | .write bytes => decide (bytes.length ≤ 65535)
  | .reset | .writeByte _ | .newline => true
  | .wrLcr _ | .wrDll _ | .wrDlm _ | .wrThr _ | .rdLsr => true

/-- A byte string that one WRITE may carry under a configuration: at most `MAX_WRITE_LEN` bytes, which the 16-bit field
always holds (R7, R73; log 35). -/
def Config.writeFits (c : Config) (bytes : List Byte) : Bool := decide (bytes.length ≤ c.maxWriteLen.toNat)

/-- A configuration is well formed only if `LCR_FORMAT` has DLAB clear and the divisor is not zero (R8). -/
def Config.wellFormed (c : Config) : Bool :=
  decide (c.lcrFormat &&& Config.dlabMask = 0#8) && decide (c.divisor ≠ 0#16)

end Sys2Proof
end

