-- ==== Sys2Proof/Decode.lean ====
section
/-!
DEFINITION. Decoding and encoding (30_encoding.md): the host's byte stream, the bus select key, and after them the
encoder. Decoding is total: every byte string decodes or is refused by name.
-/

namespace Sys2Proof

/-! ## Bit fields -/

/-- The 16-bit count `{byte2, byte1}` of a WRITE, little-endian (R71, R73). -/
def lengthField (lo hi : Byte) : Nat := (hi ++ lo).toNat

/-- The low byte of a 16-bit value. -/
def lowByte (v : BitVec 16) : Byte := v.extractLsb' 0 8

/-- The high byte of a 16-bit value. -/
def highByte (v : BitVec 16) : Byte := v.extractLsb' 8 8

/-- The select key of a transaction: DLAB, direction (1 = write), offset (R76). -/
def selectKey (dlab write : Bool) (off : Offset) : SelectKey :=
  BitVec.ofBool dlab ++ (BitVec.ofBool write ++ off)

/-! ## The register decode table (R77) -/

/-- One row of R77: the row matches a key that agrees with `pattern` on the bits of `mask`. -/
structure SelectRow where
  pattern : SelectKey
  mask : SelectKey
  select : Select
  deriving DecidableEq, Repr

/-- Whether a row matches a key (R77). -/
def selectRowMatches (r : SelectRow) (k : SelectKey) : Bool := k &&& r.mask == r.pattern

/-- The five rows of R77. -/
def selectTable : List SelectRow :=
  [ ⟨0x08#5, 0x1F#5, .wrThr⟩
  , ⟨0x18#5, 0x1F#5, .wrDll⟩
  , ⟨0x19#5, 0x1F#5, .wrDlm⟩
  , ⟨0x0B#5, 0x0F#5, .wrLcr⟩
  , ⟨0x05#5, 0x0F#5, .rdLsr⟩ ]

/-- The register a select key reaches, or none where the key is unmodelled (R77, R78). -/
def decodeSelect (k : SelectKey) : Option Select :=
  (selectTable.find? fun r => selectRowMatches r k).map SelectRow.select

/-! ## Decoding one instruction -/

/-- What a decoder answers: an instruction and the bytes after it, or a refusal by name. -/
inductive Verdict where
  /-- An instruction was read; `rest` follows it. -/
  | ok (i : Instr) (rest : List Byte)
  /-- The stream is at its end: no command is there. -/
  | done
  /-- A reserved opcode byte; exactly that byte is consumed (R74). -/
  | illegal (op : Byte) (rest : List Byte)
  /-- A select key that matches no row (R78). -/
  | unmodelled (key : SelectKey)
  /-- The bytes end before the instruction's last byte; `pos` is the position of the first missing byte, counted from
  the instruction's first byte (R75). -/
  | truncated (pos : Nat)
  deriving DecidableEq, Repr

/-- The first command of a host stream (R71 to R75). -/
def decodeCommand : List Byte → Verdict
  | [] => .done
  | op :: bs =>
    if op = 0x00#8 then .ok .reset bs
    else if op = 0x01#8 then
      match bs with
      | b :: rest => .ok (.writeByte b) rest
      | [] => .truncated 1
    else if op = 0x02#8 then
      match bs with
      | lo :: hi :: rest =>
        if lengthField lo hi ≤ rest.length then
          .ok (.write (rest.take (lengthField lo hi))) (rest.drop (lengthField lo hi))
        else .truncated (3 + rest.length)
      | [_] => .truncated 2
      | [] => .truncated 1
    else if op = 0x03#8 then .ok .newline bs
    else .illegal op bs

/-- A bus transaction written as bytes: the select key in bits 4:0 of the first byte, then, for a write, the byte
written. This byte layout is the model's (log 2); the key and its table are R76 and R77. -/
def decodeBus : List Byte → Verdict
  | [] => .done
  | kb :: bs =>
    match decodeSelect (kb.setWidth 5) with
    | none => .unmodelled (kb.setWidth 5)
    | some .rdLsr => .ok .rdLsr bs
    | some .wrThr => match bs with | v :: rest => .ok (.wrThr v) rest | [] => .truncated 1
    | some .wrDll => match bs with | v :: rest => .ok (.wrDll v) rest | [] => .truncated 1
    | some .wrDlm => match bs with | v :: rest => .ok (.wrDlm v) rest | [] => .truncated 1
    | some .wrLcr => match bs with | v :: rest => .ok (.wrLcr v) rest | [] => .truncated 1

/-- Decoding at one of the two levels (R70). -/
def decodeAt : Level → List Byte → Verdict
  | .command, bs => decodeCommand bs
  | .bus, bs => decodeBus bs

/-! ## Decoding a whole stream (R75) -/

/-- What a whole host stream decodes to: a list of commands, possibly ended by an illegal opcode, or the refusal
`Truncated` with the byte position. -/
inductive StreamVerdict where
  | commands (is : List Instr) (illegalEnd : Option Byte)
  | truncated (pos : Nat)
  deriving DecidableEq, Repr

/-- Put one more command before what the rest of the stream decodes to. -/
def streamCons (i : Instr) : StreamVerdict → StreamVerdict
  | .commands is e => .commands (i :: is) e
  | .truncated pos => .truncated pos

/-- Decode a stream from byte position `pos` on. Every command takes at least one byte, so a fuel of the stream's
length is enough. -/
def decodeStreamFrom : Nat → Nat → List Byte → StreamVerdict
  | 0, _, _ => .commands [] none
  | fuel + 1, pos, bs =>
    match decodeCommand bs with
    | .ok i rest => streamCons i (decodeStreamFrom fuel (pos + (bs.length - rest.length)) rest)
    | .done => .commands [] none
    | .illegal op _ => .commands [] (some op)
    | .unmodelled _ => .commands [] none
    | .truncated k => .truncated (pos + k)

/-- Every finite stream decodes to a list of commands or is refused as `Truncated` (R75). -/
def decodeStream (bs : List Byte) : StreamVerdict := decodeStreamFrom bs.length 0 bs

/-! ## Encoding -/

/-- The bytes of an instruction: a host command as R71 and R72 lay it out, a bus transaction as its select key (the
don't-care DLAB bit of `WR_LCR` and `RD_LSR` written as 0) and its data byte. -/
def encode : Instr → List Byte
  | .reset => [0x00#8]
  | .writeByte b => [0x01#8, b]
  | .write bytes =>
    0x02#8 :: lowByte (BitVec.ofNat 16 bytes.length) :: highByte (BitVec.ofNat 16 bytes.length) :: bytes
  | .newline => [0x03#8]
  | .wrLcr v => [0x0B#8, v]
  | .wrDll v => [0x18#8, v]
  | .wrDlm v => [0x19#8, v]
  | .wrThr v => [0x08#8, v]
  | .rdLsr => [0x05#8]

/-- The match value and the mask of an instruction's row of spec/opcode_table.json (R72, R77). -/
def tableRow : Instr → Byte × Byte
  | .reset => (0x00#8, 0xFF#8)
  | .writeByte _ => (0x01#8, 0xFF#8)
  | .write _ => (0x02#8, 0xFF#8)
  | .newline => (0x03#8, 0xFF#8)
  | .wrLcr _ => (0x0B#8, 0x0F#8)
  | .wrDll _ => (0x18#8, 0x1F#8)
  | .wrDlm _ => (0x19#8, 0x1F#8)
  | .wrThr _ => (0x08#8, 0x1F#8)
  | .rdLsr => (0x05#8, 0x0F#8)

/-- How many bytes an instruction's encoding has: `CMD_A` 1, `CMD_B` 2, `CMD_C` 3 + n (R71); a bus transaction its key
byte and, for a write, its data byte. -/
def encodedLength : Instr → Nat
  | .reset | .newline | .rdLsr => 1
  | .writeByte _ | .wrLcr _ | .wrDll _ | .wrDlm _ | .wrThr _ => 2
  | .write bytes => 3 + bytes.length

/-- The expansion of a pseudo-instruction (R82). -/
def expandPseudo : Pseudo → List Instr
  | .init => [.reset]
  | .putc b => [.writeByte b]
  | .puts bytes => [.write bytes]
  | .putln bytes => [.write bytes, .newline]

/-! ## The opcode table's numbering -/

/-- The bytes of an opcode-table word of `nbits` bits: byte 0 is bits 7:0. -/
def tableBytes (nbits w : Nat) : List Byte :=
  (List.range ((nbits + 7) / 8)).map fun k => BitVec.ofNat 8 (w >>> (8 * k))

/-- How many bytes the command that begins with these bytes has, bytes not given counting as zero (R71, R75). -/
def commandLength (bs : List Byte) : Nat :=
  if bs.getD 0 0#8 = 0x01#8 then 2
  else if bs.getD 0 0#8 = 0x02#8 then 3 + lengthField (bs.getD 1 0#8) (bs.getD 2 0#8)
  else 1

/-- Those bytes as one whole command: cut at the command's end, the bytes not given set to zero. -/
def commandBytes (bs : List Byte) : List Byte :=
  (bs ++ List.replicate (commandLength bs) 0#8).take (commandLength bs)

/-- A bus transaction's two bytes, a data byte not given set to zero. -/
def busBytes (bs : List Byte) : List Byte := [bs.getD 0 0#8, bs.getD 1 0#8]

/-- The instruction of an opcode-table word. The table lists host commands by opcode byte and bus transactions by
select key; no legal opcode byte is the key of a decoded register, so the host's decoder is asked first and the bus
decoder where that one refuses (log 1). The machine itself never mixes the levels. -/
def decodeTableWord (nbits w : Nat) : Option Instr :=
  match decodeCommand (commandBytes (tableBytes nbits w)) with
  | .ok i _ => some i
  | _ =>
    match decodeBus (busBytes (tableBytes nbits w)) with
    | .ok i _ => some i
    | _ => none

end Sys2Proof
end

