-- ==== Sys2Proof/Machine/State.lean ====
section
/-!
DEFINITION. The machine's state as plain data: the sequencer's registers, the UART registers behind the port bus, the
trace, the configuration of the launch, and the inputs from outside (10_state.md; INVENTORY.md, heading State).
-/

namespace Sys2Proof.Machine

/-- The sequencer control register, the block's program counter (R22). Encoding 7 is unused and has no constructor. -/
inductive Phase where
  | rst0
  | rst1
  | rst2
  | rst3
  | idle
  | poll
  | send
  deriving DecidableEq, Repr

/-- The three agents that take steps (R6). -/
inductive Agent where
  | host
  | sequencer
  | device
  deriving DecidableEq, Repr

/-- One port event (R27). -/
inductive Event where
  /-- `W(port, v)`: an 8-bit write. -/
  | w (port : Port) (v : Byte)
  /-- `R(port, v)`: an 8-bit read that returned `v`. -/
  | r (port : Port) (v : Byte)
  deriving DecidableEq, Repr

/-- What the sticky fault register can hold: the closed list of R171, each reason with its recorded info. -/
inductive FaultReason where
  /-- A reserved opcode delivered in Idle. -/
  | illegalCommand (op : Byte)
  /-- A delivery while the block is not Idle. -/
  | busyViolation (phase : Phase)
  /-- Reference device model: a transaction whose key matches no decoded register. -/
  | unmodelledRegister (key : SelectKey) (port : Port)
  /-- Reference device model: WR_THR while THRE = 0. -/
  | thrOverrunHazard (v : Byte)
  deriving DecidableEq, Repr

/-- The UART register file behind the port bus (R29 to R36, R43). -/
structure Uart where
  /-- LCR; bit 7 is DLAB (R30). -/
  lcr : Byte
  /-- Divisor latch low byte (R32). -/
  dll : Byte
  /-- Divisor latch high byte (R32). -/
  dlm : Byte
  /-- Transmit holding register, write side (R33). -/
  thr : Byte
  /-- THRE, bit 5 of LSR (R34, R35), of the reference device model. -/
  thre : Bool
  /-- The bytes accepted for transmission, in order (R43), of the reference device model. -/
  wire : List Byte
  deriving DecidableEq, Repr

/-- The whole state. -/
structure State where
  /-- The launch's parameters; no step writes them (R42; log 6). -/
  cfg : Config
  /-- The sequencer control register (R22). -/
  phase : Phase
  /-- The LCR cache: 8 bits, or unwritten, which is the spec's own third possibility (R21). -/
  lcr : Option Byte
  /-- The byte in flight (R23). -/
  cur : Byte
  /-- The remaining bytes of the command (R23). -/
  rest : List Byte
  /-- The sticky fault register (R24). -/
  fault : Option FaultReason
  /-- The event history, oldest first (R27). -/
  trace : List Event
  /-- The device side of the port bus. -/
  dev : Uart
  /-- INPUT: the byte stream the host delivers commands from (R71; log 3). -/
  hostStream : List Byte
  /-- How many bytes of the stream have been delivered (log 3). -/
  hostPos : Nat
  /-- INPUT: the oracle's next answers to LSR reads, oldest first; after the last one answers are free (R57; log 5). -/
  lsrIn : List Byte
  /-- INPUT: the agents that move next, oldest first; after the last one the rule of log 4 decides. -/
  sched : List Agent
  /-- The model's own counter that indexes the free values (log 5). -/
  draws : Nat
  deriving DecidableEq, Repr

/-- Why the machine stops. -/
inductive Fault where
  /-- Raised by `step` and by every meaning in a state whose fault register is set: no agent takes a step any more
  (R172, R179). Safe: the spec's machine does not go on either. -/
  | halted (r : FaultReason)
  /-- Raised by a read of the LCR cache while it is unwritten (R21). Safe; no step of the spec does such a read. -/
  | cacheUnwritten
  deriving DecidableEq, Repr

/-- Why a step or a launch is refused. -/
inductive Refusal where
  /-- Answered by an arm of `exec` whose instruction has no meaning yet. Safe. -/
  | notModelled (mnemonic : String)
  /-- Answered by the host's step when the stream ends inside a command: the decoder's verdict `Truncated`, with the
  byte position in the stream (R75). Safe: no part of the command reaches the block. -/
  | truncated (pos : Nat)
  /-- Answered by a launch whose configuration fails R8. Safe. -/
  | illFormedConfig
  deriving DecidableEq, Repr

/-- The device registers at reset. The spec leaves every one unspecified (R41); these values are the model's
(DESIGN CHOICE, log 7), and `State.launch` takes any others. -/
def Uart.reset : Uart :=
  { lcr := 0#8, dll := 0#8, dlm := 0#8, thr := 0#8, thre := false, wire := [] }

/-- The machine right after power-on with the default configuration (R40, R190). `cur` is undefined there; its value is
the model's (DESIGN CHOICE, log 8). Nothing is delivered, answered or scheduled yet. -/
def State.reset : State :=
  { cfg := {}
    phase := .rst0
    lcr := none
    cur := 0#8
    rest := []
    fault := none
    trace := []
    dev := Uart.reset
    hostStream := []
    hostPos := 0
    lsrIn := []
    sched := []
    draws := 0 }

end Sys2Proof.Machine
end

