-- ==== Sys2Proof/Machine/Flags.lean ====
section
/-!
DEFINITION. The flags: THRE in an LSR value and DLAB in an LCR value (10_state.md R34 to R36, 42_transmit.md R141), the
busy output (R25), and the number codes of phases and fault reasons (R22, R171).
-/

namespace Sys2Proof.Machine

/-- The ready predicate on an LSR value: `(v & THRE_MASK) ≠ 0` (R141). -/
def ready (v : Byte) : Bool := v &&& Config.threMask != 0#8

/-- An LSR value with its THRE bit set to `t` and its other bits as they are (R43, R105). -/
def withThre (t : Bool) (v : Byte) : Byte :=
  if t then v ||| Config.threMask else v &&& ~~~Config.threMask

/-- The DLAB bit of an LCR value (R30, R31). -/
def dlabOf (v : Byte) : Bool := v.getLsbD 7

/-- The device's DLAB (R36). -/
def State.dlab (s : State) : Bool := dlabOf s.dev.lcr

/-- The output `busy = (phase ≠ Idle)` (R25). -/
def State.busy (s : State) : Bool := decide (s.phase ≠ .idle)

/-- The 3-bit encoding of a phase (R22). -/
def Phase.code : Phase → BitVec 3
  | .rst0 => 0#3
  | .rst1 => 1#3
  | .rst2 => 2#3
  | .rst3 => 3#3
  | .idle => 4#3
  | .poll => 5#3
  | .send => 6#3

/-- The phase a 3-bit encoding names; 7 is unused (R22). -/
def Phase.ofCode (c : BitVec 3) : Option Phase :=
  if c = 0#3 then some .rst0
  else if c = 1#3 then some .rst1
  else if c = 2#3 then some .rst2
  else if c = 3#3 then some .rst3
  else if c = 4#3 then some .idle
  else if c = 5#3 then some .poll
  else if c = 6#3 then some .send
  else none

/-- Whether a phase lies in the divisor-latch window (R38). -/
def Phase.inWindow : Phase → Bool
  | .rst1 | .rst2 | .rst3 => true
  | .rst0 | .idle | .poll | .send => false

/-- Whether a phase belongs to the RESET sequence. -/
def Phase.inReset : Phase → Bool
  | .rst0 | .rst1 | .rst2 | .rst3 => true
  | .idle | .poll | .send => false

/-- The code of a fault reason (R171). -/
def FaultReason.code : FaultReason → Nat
  | .illegalCommand _ => 1
  | .busyViolation _ => 2
  | .unmodelledRegister _ _ => 3
  | .thrOverrunHazard _ => 4

end Sys2Proof.Machine
end

