-- ==== Sys2Proof/Machine/Operands.lean ====
section
/-!
DEFINITION. Where the operands of transactions come from (30_encoding.md R79): the port of an offset (20_memory.md R52),
the two bytes of the divisor, the LCR cache, the next answer of the LSR oracle; and the select key of an event.
-/

namespace Sys2Proof.Machine

/-- `port = IOPORT + zext_16(off)` (R52). -/
def portAddr (off : Offset) : Port := Config.ioport + off.setWidth 16

/-- `DIVISOR[7:0]` (R53, R79). -/
def divisorLow (c : Config) : Byte := lowByte c.divisor

/-- `DIVISOR[15:8]` (R53, R79). -/
def divisorHigh (c : Config) : Byte := highByte c.divisor

/-- The LCR cache as an operand: none while it is unwritten (R21). -/
def State.readCache (s : State) : Option Byte := s.lcr

/-- The oracle's next answer to an LSR read: the first one listed, else a free value (R57). -/
def State.nextAnswer (s : State) : Byte :=
  match s.lsrIn with
  | a :: _ => a
  | [] => Config.freeLsr s.draws

/-- The value a read of offset `off` returns now. In the oracle model, and where no device answers, it is the draw; in
the reference device model an LSR read returns THRE in bit 5 and the draw in the other bits (R43, R105). -/
def State.readValue (off : Offset) (s : State) : Byte :=
  match s.cfg.device, decodeSelect (selectKey s.dlab false off) with
  | .reference, some .rdLsr => withThre s.dev.thre s.nextAnswer
  | _, _ => s.nextAnswer

/-- The bytes of the host's stream not yet delivered. -/
def State.pending (s : State) : List Byte := s.hostStream.drop s.hostPos

/-- The offset of a port of the register block, none for a port outside it (R51, R52). -/
def offsetOf (p : Port) : Option Offset :=
  if (p - Config.ioport).toNat < 8 then some ((p - Config.ioport).setWidth 3) else none

/-- The register an event reaches with the device's DLAB as given (R76, R77), none for an unmodelled one. -/
def Event.select (dlab : Bool) : Event → Option Select
  | .w p _ => (offsetOf p).bind fun off => decodeSelect (selectKey dlab true off)
  | .r p _ => (offsetOf p).bind fun off => decodeSelect (selectKey dlab false off)

end Sys2Proof.Machine
end

