-- ==== Sys2Proof/Machine/Ops.lean ====
section
/-!
DEFINITION. The named operations over the state: raising a fault (60_exceptions.md R172), recording an event (R27), the
port primitives with the device's side of each transaction (R9, R101 to R106), the drain step (R43), and what every host
command shares (R180, R181).
-/

namespace Sys2Proof.Machine

/-! ## Faults and the trace -/

/-- `raise Fault(r)`: the sticky register takes the reason; nothing else changes (R172). -/
def State.raise (r : FaultReason) (s : State) : State := { s with fault := some r }

/-- Append one event to the trace (R27). -/
def State.record (e : Event) (s : State) : State := { s with trace := s.trace ++ [e] }

/-- The oracle's answer has been given: take it off the list, or count a free one (R28: two polls share no value). -/
def State.takeAnswer (s : State) : State :=
  { s with
    lsrIn := s.lsrIn.tail
    draws := if s.lsrIn = [] then s.draws + 1 else s.draws }

/-! ## The device side -/

/-- What the device holds after a register write that would leave it `d`: without a device the write is dropped
(R63, R173). -/
def State.stored (d : Uart) (s : State) : Uart := if s.cfg.device = .absent then s.dev else d

/-- A transaction that reaches no decoded register: the reference device model raises `UnmodelledRegister`, the oracle
model gives it no meaning (R106), and nothing happens where no device answers (R63). -/
def State.unmodelledAccess (key : SelectKey) (port : Port) (s : State) : State :=
  match s.cfg.device with
  | .oracle | .absent => s
  | .reference => s.raise (.unmodelledRegister key port)

/-- A byte reaches the data register (R104). In the reference device model a byte that arrives while THRE = 0 raises
`ThrOverrunHazard`, and otherwise goes to the wire and clears THRE; the oracle model has no transmitter (log 14), and
without a device the byte is dropped (R173). -/
def State.acceptByte (v : Byte) (s : State) : State :=
  match s.cfg.device with
  | .absent => s
  | .oracle => { s with dev := { s.dev with thr := v } }
  | .reference =>
    if s.dev.thre then
      { s with dev := { s.dev with thr := v, thre := false, wire := s.dev.wire ++ [v] } }
    else s.raise (.thrOverrunHazard v)

/-- The device's side of an 8-bit write: the register is decoded from the key with the DLAB the device holds now
(R31, R76, R77, R101 to R104). An absent device takes nothing (R173). -/
def State.deviceWrite (off : Offset) (v : Byte) (s : State) : State :=
  match decodeSelect (selectKey s.dlab true off) with
  | some .wrLcr => { s with dev := s.stored { s.dev with lcr := v } }
  | some .wrDll => { s with dev := s.stored { s.dev with dll := v } }
  | some .wrDlm => { s with dev := s.stored { s.dev with dlm := v } }
  | some .wrThr => s.acceptByte v
  | some .rdLsr => s
  | none => s.unmodelledAccess (selectKey s.dlab true off) (portAddr off)

/-- `PortWrite(IOPORT + off, v)`: the event is recorded, a faulting one too, and the device takes the byte
(R9, R100, R172). -/
def State.portWrite (off : Offset) (v : Byte) (s : State) : State :=
  (s.record (.w (portAddr off) v)).deviceWrite off v

/-- The device's side of an 8-bit read: only LSR is described; it changes nothing (R56, R105, R106). -/
def State.deviceRead (off : Offset) (s : State) : State :=
  match decodeSelect (selectKey s.dlab false off) with
  | some _ => s
  | none => s.unmodelledAccess (selectKey s.dlab false off) (portAddr off)

/-- `v <- PortRead(IOPORT + off)` with `v = s.readValue off`: the event is recorded with the value (R9, R57). -/
def State.portRead (off : Offset) (s : State) : State :=
  (s.takeAnswer.record (.r (portAddr off) (s.readValue off))).deviceRead off

/-- The drain step, `THRE <- 1`, enabled while THRE = 0 in the reference device model (R43). -/
def State.drainEnabled (s : State) : Bool :=
  decide (s.cfg.device = .reference) && !s.dev.thre

/-- The drain step's effect (R43). -/
def State.drain (s : State) : State :=
  if s.drainEnabled then { s with dev := { s.dev with thre := true } } else s

/-! ## Host commands -/

/-- Begin to send a command's bytes: `cur` and `rest` take them and `phase <- Poll`; with no byte nothing happens
(R142, R145, R146, R147). -/
def State.beginBytes (bytes : List Byte) (s : State) : State :=
  match bytes with
  | [] => s
  | b :: bs => { s with cur := b, rest := bs, phase := .poll }

/-- A delivery of a command whose admission step is `f`: nothing in a faulted block (R177.1), `BusyViolation` with the
phase while the block is not Idle (R181), else the admission step (R180). -/
def admission (f : State → State) (s : State) : Host.Outcome State Fault Refusal :=
  match s.fault with
  | some r => .fault (.halted r)
  | none => if s.phase = .idle then .next (f s) else .next (s.raise (.busyViolation s.phase))

/-- A bus transaction with effect `f`: none in a faulted block (R172). -/
def transact (f : State → State) (s : State) : Host.Outcome State Fault Refusal :=
  match s.fault with
  | some r => .fault (.halted r)
  | none => .next (f s)

end Sys2Proof.Machine
end

