-- ==== Sys2Proof/Machine/RegisterAccess.lean ====
section
/-!
DEFINITION. The five bus transactions (40_register_access.md R100 to R105). Which register a write reaches is the
device's decode of offset and DLAB (R76), so `WR_DLL` with DLAB clear is a write of the data register (R102).
-/

namespace Sys2Proof.Machine

/-- `WR_LCR v` (R101). -/
def execWrLcr (v : Byte) (s : State) : Host.Outcome State Fault Refusal :=
  transact (State.portWrite Config.offLcr v) s

/-- `WR_DLL v` (R102). -/
def execWrDll (v : Byte) (s : State) : Host.Outcome State Fault Refusal :=
  transact (State.portWrite Config.offDll v) s

/-- `WR_DLM v` (R103). -/
def execWrDlm (v : Byte) (s : State) : Host.Outcome State Fault Refusal :=
  transact (State.portWrite Config.offDlm v) s

/-- `WR_THR v` (R104). -/
def execWrThr (v : Byte) (s : State) : Host.Outcome State Fault Refusal :=
  transact (State.portWrite Config.offData v) s

/-- `RD_LSR`; the value returned is `s.readValue OFF_LSR` (R105). It is kept in no register (R28). -/
def execRdLsr (s : State) : Host.Outcome State Fault Refusal :=
  transact (State.portRead Config.offLsr) s

end Sys2Proof.Machine
end

