-- ==== Sys2Proof/Machine/Reset.lean ====
section
/-!
DEFINITION. The host command RESET (41_reset_sequence.md R121).
-/

namespace Sys2Proof.Machine

/-- `RESET`: `phase <- Rst0`; the four micro-steps follow (R121). -/
def execReset (s : State) : Host.Outcome State Fault Refusal :=
  admission (fun t => { t with phase := .rst0 }) s

end Sys2Proof.Machine
end

