-- ==== Sys2Proof/Machine/Transmit.lean ====
section
/-!
DEFINITION. The transmit commands (42_transmit.md): WRITE_BYTE, WRITE, NEWLINE.
-/

namespace Sys2Proof.Machine

/-- `WRITE_BYTE b`: `cur <- b; rest <- []; phase <- Poll` (R142). -/
def execWriteByte (b : Byte) (s : State) : Host.Outcome State Fault Refusal :=
  admission (State.beginBytes [b]) s

/-- `WRITE s`: the bytes in order, untranslated; the empty string completes at once (R145, R147, R148). -/
def execWrite (bytes : List Byte) (s : State) : Host.Outcome State Fault Refusal :=
  admission (State.beginBytes bytes) s

/-- `NEWLINE`: WRITE of `NEWLINE_SEQ` (R146). -/
def execNewline (s : State) : Host.Outcome State Fault Refusal :=
  admission (fun t => t.beginBytes t.cfg.newlineSeq) s

end Sys2Proof.Machine
end

