-- ==== Sys2Proof/Machine/Dispatch.lean ====
section
/-!
DEFINITION. The dispatch: one arm per instruction, each one call of its meaning.
-/

namespace Sys2Proof.Machine

def exec (i : Instr) (s : State) : Host.Outcome State Fault Refusal :=
  match i with
  | .reset => Sys2Proof.Machine.execReset s
  | .writeByte b => Sys2Proof.Machine.execWriteByte b s
  | .write bytes => Sys2Proof.Machine.execWrite bytes s
  | .newline => Sys2Proof.Machine.execNewline s
  | .wrLcr v => Sys2Proof.Machine.execWrLcr v s
  | .wrDll v => Sys2Proof.Machine.execWrDll v s
  | .wrDlm v => Sys2Proof.Machine.execWrDlm v s
  | .wrThr v => Sys2Proof.Machine.execWrThr v s
  | .rdLsr => Sys2Proof.Machine.execRdLsr s

end Sys2Proof.Machine
end

