-- ==== Sys2Proof/Machine/Micro.lean ====
section
/-!
DEFINITION. The six micro-steps of the sequencer, selected by `phase`: each issues one bus transaction and names its
successor phase (41_reset_sequence.md R122 to R125, 42_transmit.md R143, R144).
-/

namespace Sys2Proof.Machine

/-- Issue one transaction and then update the sequencer's registers by `k`; a transaction that raised a fault leaves
them as they are (R100, R172). -/
def issue (i : Instr) (k : State → State) (s : State) : Host.Outcome State Fault Refusal :=
  match exec i s with
  | .next t => .next (if t.fault = none then k t else t)
  | .fault r => .fault r
  | .refused r => .refused r

/-- `phase <- p`. -/
def State.goto (p : Phase) (s : State) : State := { s with phase := p }

/-- `lcr <- v`, the write of the LCR cache (R21, R125). -/
def State.setCache (v : Byte) (s : State) : State := { s with lcr := some v }

/-- Micro-step Rst0: set DLAB (R122). -/
def microRst0 (s : State) : Host.Outcome State Fault Refusal :=
  issue (.wrLcr s.cfg.dlabWriteValue) (State.goto .rst1) s

/-- Micro-step Rst1: the divisor's low byte (R123). -/
def microRst1 (s : State) : Host.Outcome State Fault Refusal :=
  issue (.wrDll (divisorLow s.cfg)) (State.goto .rst2) s

/-- Micro-step Rst2: the divisor's high byte (R124). -/
def microRst2 (s : State) : Host.Outcome State Fault Refusal :=
  issue (.wrDlm (divisorHigh s.cfg)) (State.goto .rst3) s

/-- Micro-step Rst3: the cache takes `LCR_FORMAT`, and the LCR is written from the cache (R125, R21, C1). -/
def microRst3 (s : State) : Host.Outcome State Fault Refusal :=
  match (s.setCache s.cfg.lcrFormat).readCache with
  | some v => issue (.wrLcr v) (State.goto .idle) (s.setCache s.cfg.lcrFormat)
  | none => .fault .cacheUnwritten

/-- Micro-step Poll: one LSR read, tested in the same step (R143, R28). -/
def microPoll (s : State) : Host.Outcome State Fault Refusal :=
  issue .rdLsr (State.goto (if ready (s.readValue Config.offLsr) then .send else .poll)) s

/-- After a byte has been written: the next byte polls again, or the command is complete (R144, R152). `cur` is
undefined outside Poll and Send (R23), so completion leaves a free value in it (log 9). -/
def State.advance (s : State) : State :=
  match s.rest with
  | [] => { s with phase := .idle, cur := Config.freeCur s.draws, draws := s.draws + 1 }
  | b :: bs => { s with cur := b, rest := bs, phase := .poll }

/-- Micro-step Send: write the byte in flight to the data register (R144). -/
def microSend (s : State) : Host.Outcome State Fault Refusal :=
  issue (.wrThr s.cur) State.advance s

/-- The sequencer's step: the micro-step of the phase; in Idle it takes none (R22, R151). -/
def sequencerStep (s : State) : Host.Outcome State Fault Refusal :=
  match s.phase with
  | .rst0 => microRst0 s
  | .rst1 => microRst1 s
  | .rst2 => microRst2 s
  | .rst3 => microRst3 s
  | .idle => .next s
  | .poll => microPoll s
  | .send => microSend s

end Sys2Proof.Machine
end

