-- ==== Sys2Proof/Machine/Agents.lean ====
section
/-!
DEFINITION. The three agents and which of them moves (00_scope.md R6, 60_exceptions.md R177, R180, R181).
-/

namespace Sys2Proof.Machine

/-- The block has taken `n` bytes of the host's stream. -/
def State.deliver (n : Nat) (s : State) : State := { s with hostPos := s.hostPos + n }

/-- The host's step: deliver the next command of its stream. A busy block raises `BusyViolation` before the opcode is
looked at; an Idle block decodes: a reserved opcode raises `IllegalCommand`, a truncated command is refused, a legal one
runs its admission step (R74, R75, R177, R180, R181). With nothing left to deliver the host does nothing (R204). -/
def hostStep (s : State) : Host.Outcome State Fault Refusal :=
  if s.pending = [] then .next s
  else if s.phase = .idle then
    match decodeCommand s.pending with
    | .ok i rest => exec i (s.deliver (s.pending.length - rest.length))
    | .illegal op _ => .next ((s.deliver 1).raise (.illegalCommand op))
    | .truncated k => .refused (.truncated (s.hostPos + k))
    | .done => .next s
    | .unmodelled _ => .next s
  else .next (s.raise (.busyViolation s.phase))

/-- The device's step: drain (R43). -/
def deviceStep (s : State) : Host.Outcome State Fault Refusal := .next s.drain

/-- Host or sequencer, as the phase says: the host moves in Idle, where the sequencer has no step, and is blocked
otherwise (R151, R177, R180). -/
def State.owner (s : State) : Agent := if s.phase = .idle then .host else .sequencer

/-- The agent that moves next: the one the input lists; after the list, the device if an enabled drain step is taken
now, which is a free choice (R177), else the owner of the turn (log 4). -/
def State.nextAgent (s : State) : Agent :=
  match s.sched with
  | a :: _ => a
  | [] => if s.drainEnabled && Config.freeDrain s.draws then .device else s.owner

/-- The turn has been given: take it off the list, or count a free choice. -/
def State.takeTurn (s : State) : State :=
  { s with
    sched := s.sched.tail
    draws := if s.sched = [] then s.draws + 1 else s.draws }

/-- The step of one agent. -/
def agentStep (a : Agent) (s : State) : Host.Outcome State Fault Refusal :=
  match a with
  | .host => hostStep s
  | .sequencer => sequencerStep s
  | .device => deviceStep s

/-- One step: in a faulted state no agent takes one (R172); else the next agent takes its turn. -/
def stepNext (s : State) : Host.Outcome State Fault Refusal :=
  match s.fault with
  | some r => .fault (.halted r)
  | none => agentStep s.nextAgent s.takeTurn

end Sys2Proof.Machine
end

