-- ==== Sys2Proof/Machine/Launch.lean ====
section
/-!
DEFINITION. The launch (70_reset_and_hazards.md R190) and placing an instruction where the next step runs it.
-/

namespace Sys2Proof.Machine

/-- A launch with configuration `c` and device registers `d`, which are the draws of R41: refused if the configuration
is not well formed (R8), else the state of R40. The wire starts empty (log 22). -/
def State.launch (c : Config) (d : Uart) : Host.Outcome State Fault Refusal :=
  if c.wellFormed then .next { State.reset with cfg := c, dev := { d with wire := [] } }
  else .refused .illFormedConfig

/-- The inputs of a run: the host's stream, the oracle's answers and the order of the agents. -/
def State.withInputs (stream : List Byte) (answers : List Byte) (order : List Agent) (s : State) : State :=
  { s with hostStream := stream, hostPos := 0, lsrIn := answers, sched := order }

/-- A byte with its DLAB bit set to `d`. -/
def setDlab (d : Bool) (v : Byte) : Byte :=
  if d then v ||| Config.dlabMask else v &&& ~~~Config.dlabMask

/-- Place a host command: the block is Idle, the command's bytes stand first in the host's stream, and the host moves
next (log 17). -/
def placeCommand (bytes : List Byte) (s : State) : State :=
  { s with
    fault := none
    phase := .idle
    hostStream := bytes ++ s.pending
    hostPos := 0
    sched := .host :: s.sched }

/-- Place a bus transaction: the phase whose micro-step issues it, the operand where that micro-step takes it from
(R79), the device's DLAB as the key has it, and the sequencer moves next (log 16). -/
def placeBus (i : Instr) (dlab : Bool) (s : State) : State :=
  let t : State :=
    { s with
      fault := none
      dev := { s.dev with lcr := setDlab dlab s.dev.lcr }
      sched := .sequencer :: s.sched }
  match i with
  | .wrLcr v =>
    if dlabOf v then { t with phase := .rst0, cfg := { t.cfg with dlabWriteValue := v } }
    else { t with phase := .rst3, cfg := { t.cfg with lcrFormat := v } }
  | .wrDll v => { t with phase := .rst1, cfg := { t.cfg with divisor := 0x01#8 ++ v } }
  | .wrDlm v => { t with phase := .rst2, cfg := { t.cfg with divisor := v ++ 0x01#8 } }
  | .wrThr v => { t with phase := .send, cur := v }
  | .rdLsr => { t with phase := .poll }
  | .reset | .writeByte _ | .write _ | .newline => t

/-- Place the instruction of an opcode-table word; a word that is none is placed as a host command. -/
def placeWord (nbits w : Nat) (s : State) : State :=
  match decodeTableWord nbits w with
  | some i =>
    match i.level with
    | .command => placeCommand (commandBytes (tableBytes nbits w)) s
    | .bus => placeBus i (((tableBytes nbits w).getD 0 0#8).getLsbD 4) s
  | none => placeCommand (commandBytes (tableBytes nbits w)) s

end Sys2Proof.Machine
end

