-- ==== Sys2Proof/Machine/Step.lean ====
section
/-!
DEFINITION. One step of the machine, and placing an instruction for the next step.
-/

namespace Sys2Proof.Machine

/-- One step: one transition of one agent (R11). -/
def step (s : State) : Host.Outcome State Fault Refusal := stepNext s

/-- `s` with the instruction of an opcode-table word placed so that the very next step runs it (logs 16 and 17). -/
def State.withFetchWord (s : State) (nbits w : Nat) : State := placeWord nbits w s

end Sys2Proof.Machine
end

