-- ==== Sys2Proof/Machine/Assembler.lean ====
section
/-!
DEFINITION. The assembler of 30_encoding.md R80 with the pseudo-instructions of R82: text, as a list of characters, to
host commands, or a refusal by name.
-/

namespace Sys2Proof.Machine

/-- Why the assembler refuses a line. -/
inductive AsmError where
  /-- No mnemonic of R80 or R82. -/
  | unknownMnemonic
  /-- An operand that has none of the forms of R80. -/
  | badOperand
  /-- An immediate outside 0 to 255 (R80). -/
  | outOfRange (n : Nat)
  /-- A WRITE of more than `MAX_WRITE_LEN` bytes (R7, R73). -/
  | tooLong (n : Nat)
  /-- Text after the operands that is no comment. -/
  | trailingText
  deriving DecidableEq, Repr

/-- The assembler's answer for a source: the commands in order, or the first refused line (numbered from 1). -/
inductive AsmVerdict where
  | ok (is : List Instr)
  | refused (line : Nat) (why : AsmError)
  deriving DecidableEq, Repr

/-- White space inside a line: space, tab and carriage return (DESIGN CHOICE, log 26). -/
def isBlank (c : Char) : Bool := c == ' ' || c == '\t' || c == '\r'

/-- A character of a mnemonic. -/
def isMnemonicChar (c : Char) : Bool := c.isUpper || c == '_'

/-- The value of a hexadecimal digit, in `0x` immediates and in the escape `\xHH`. R80 does not say which letter case
counts; the model takes both (DESIGN CHOICE, log 26). -/
def hexValue (c : Char) : Option Nat :=
  if '0' ≤ c ∧ c ≤ '9' then some (c.toNat - 48)
  else if 'A' ≤ c ∧ c ≤ 'F' then some (c.toNat - 55)
  else if 'a' ≤ c ∧ c ≤ 'f' then some (c.toNat - 87)
  else none

/-- The number a list of digits stands for in a base. -/
def digitsValue (base : Nat) (ds : List Char) : Nat :=
  ds.foldl (fun n d => base * n + (hexValue d).getD 0) 0

/-- An immediate of the given value, refused outside 0 to 255 (R80). -/
def immediate (n : Nat) (after : List Char) : Except AsmError (Byte × List Char) :=
  if n ≤ 255 then .ok (BitVec.ofNat 8 n, after) else .error (.outOfRange n)

/-- One `<imm8>`: decimal, `0x` hexadecimal, or a quoted ASCII character (R80). Any number of digits counts, leading
zeros included, and between the quotes stands exactly one character, taken as it is: a `;` starts no comment there, and
no escape is read (DESIGN CHOICE, log 26). -/
def parseImm : List Char → Except AsmError (Byte × List Char)
  | '\'' :: c :: '\'' :: r => if c.toNat < 128 then immediate c.toNat r else .error .badOperand
  | '0' :: 'x' :: r =>
    if (r.takeWhile fun c => (hexValue c).isSome) = [] then .error .badOperand
    else immediate (digitsValue 16 (r.takeWhile fun c => (hexValue c).isSome))
      (r.dropWhile fun c => (hexValue c).isSome)
  | cs =>
    if cs.takeWhile Char.isDigit = [] then .error .badOperand
    else immediate (digitsValue 10 (cs.takeWhile Char.isDigit)) (cs.dropWhile Char.isDigit)

/-- Put a byte before the text parsed after it. -/
def consByte (b : Byte) : Except AsmError (List Byte × List Char) → Except AsmError (List Byte × List Char)
  | .ok (bs, r) => .ok (b :: bs, r)
  | .error e => .error e

/-- The rest of a quoted text after its opening quote, with the escapes of R80. R80 does not say whether `;` starts a
comment inside quotes; here, and in a quoted character, the model reads it as an ordinary character, the byte 0x3B. An
escape that R80 does not list, a character outside ASCII and a text with no closing quote are refused (DESIGN CHOICE,
log 26). -/
def parseText : List Char → Except AsmError (List Byte × List Char)
  | '"' :: r => .ok ([], r)
  | '\\' :: 'r' :: r => consByte 0x0D#8 (parseText r)
  | '\\' :: 'n' :: r => consByte 0x0A#8 (parseText r)
  | '\\' :: '0' :: r => consByte 0x00#8 (parseText r)
  | '\\' :: 'x' :: a :: b :: r =>
    match hexValue a, hexValue b with
    | some x, some y => consByte (BitVec.ofNat 8 (16 * x + y)) (parseText r)
    | _, _ => .error .badOperand
  | '\\' :: _ => .error .badOperand
  | c :: r => if c.toNat < 128 then consByte (BitVec.ofNat 8 c.toNat) (parseText r) else .error .badOperand
  | [] => .error .badOperand

/-- A list `<imm8>, <imm8>, …`; the fuel is the number of characters. -/
def parseImmList : Nat → List Char → Except AsmError (List Byte × List Char)
  | 0, _ => .error .badOperand
  | fuel + 1, cs =>
    match parseImm (cs.dropWhile isBlank) with
    | .error e => .error e
    | .ok (b, r) =>
      match r.dropWhile isBlank with
      | ',' :: r' => consByte b (parseImmList fuel r')
      | r' => .ok ([b], r')

/-- The end of a line: nothing, or a comment after `;` (R80). Other text there is refused (DESIGN CHOICE, log 26). -/
def lineEnd (is : List Instr) (cs : List Char) : Except AsmError (List Instr) :=
  match cs.dropWhile isBlank with
  | [] => .ok is
  | ';' :: _ => .ok is
  | _ => .error .trailingText

/-- A command with a byte-string operand, refused if it is longer than one WRITE may be (R7, R73; log 35). -/
def textCommand (c : Config) (f : List Byte → List Instr) (bytes : List Byte) (r : List Char) :
    Except AsmError (List Instr) :=
  if c.writeFits bytes then lineEnd (f bytes) r else .error (.tooLong bytes.length)

/-- A list of immediates in brackets, as 95_test_vectors.md P6 spells it; `[]` is the empty string (DESIGN CHOICE,
log 26). -/
def bracketList (cs : List Char) : Except AsmError (List Byte × List Char) :=
  match cs.dropWhile isBlank with
  | ']' :: r => .ok ([], r)
  | r =>
    match parseImmList (r.length + 1) r with
    | .ok (bytes, ']' :: r') => .ok (bytes, r')
    | .ok _ => .error .badOperand
    | .error e => .error e

/-- The operand of WRITE: a quoted text, or a list of immediates if `listAllowed` (R80). -/
def textOperand (c : Config) (listAllowed : Bool) (f : List Byte → List Instr) (cs : List Char) :
    Except AsmError (List Instr) :=
  match cs.dropWhile isBlank with
  | '"' :: r =>
    match parseText r with
    | .ok (bytes, r') => textCommand c f bytes r'
    | .error e => .error e
  | '[' :: r =>
    if listAllowed then
      match bracketList r with
      | .ok (bytes, r') => textCommand c f bytes r'
      | .error e => .error e
    else .error .badOperand
  | r =>
    if listAllowed then
      match parseImmList (r.length + 1) r with
      | .ok (bytes, r') => textCommand c f bytes r'
      | .error e => .error e
    else .error .badOperand

/-- A command with one immediate operand. -/
def immOperand (f : Byte → List Instr) (cs : List Char) : Except AsmError (List Instr) :=
  match parseImm (cs.dropWhile isBlank) with
  | .ok (b, r) => lineEnd (f b) r
  | .error e => .error e

/-- One line (R80, R82): a command or a pseudo-instruction, or, as the model also reads it, nothing or a comment alone
(DESIGN CHOICE, log 26). A mnemonic ends at the first character
that is no capital letter and no `_`. R80 shows its forms with a blank before the operand and does not say that one must
stand there; the model needs none, so `WRITE65` and `WRITE_BYTE'A'` are read (DESIGN CHOICE, log 26). -/
def assembleLine (c : Config) (line : List Char) : Except AsmError (List Instr) :=
  let cs := line.dropWhile isBlank
  let name := cs.takeWhile isMnemonicChar
  let r := cs.dropWhile isMnemonicChar
  if name = [] then
    match cs with
    | [] => .ok []
    | ';' :: _ => .ok []
    | _ => .error .unknownMnemonic
  else if name = "RESET".toList then lineEnd [.reset] r
  else if name = "WRITE_BYTE".toList then immOperand (fun b => [.writeByte b]) r
  else if name = "WRITE".toList then textOperand c true (fun bytes => [.write bytes]) r
  else if name = "NEWLINE".toList then lineEnd [.newline] r
  else if name = "INIT".toList then lineEnd (expandPseudo .init) r
  else if name = "PUTC".toList then immOperand (fun b => expandPseudo (.putc b)) r
  else if name = "PUTS".toList then textOperand c false (fun bytes => expandPseudo (.puts bytes)) r
  else if name = "PUTLN".toList then textOperand c false (fun bytes => expandPseudo (.putln bytes)) r
  else .error .unknownMnemonic

/-- The lines of a source. -/
def sourceLines : List Char → List (List Char)
  | [] => [[]]
  | '\n' :: r => [] :: sourceLines r
  | c :: r =>
    match sourceLines r with
    | [] => [[c]]
    | l :: ls => (c :: l) :: ls

/-- Assemble lines numbered from `n`: one command per line (R80). -/
def assembleLines (c : Config) : Nat → List (List Char) → AsmVerdict
  | _, [] => .ok []
  | n, l :: ls =>
    match assembleLine c l with
    | .error e => .refused n e
    | .ok is =>
      match assembleLines c (n + 1) ls with
      | .ok js => .ok (is ++ js)
      | .refused k e => .refused k e

/-- Assemble a source text under a configuration. -/
def assemble (c : Config) (src : List Char) : AsmVerdict := assembleLines c 1 (sourceLines src)

end Sys2Proof.Machine
end

