-- ==== Sys2Proof/Safety.lean ====
section
/-!
DEFINITION. What counts as a safe run, in the terms the statements use: runs of several steps, the events a command
must append (R120, R149, R153), the discipline of the trace (R38, R195), the block's invariant, and the end of a run
(R203).
-/

namespace Sys2Proof.Safety

open Sys2Proof.Machine

/-! ## Runs -/

/-- `k` steps of the machine, stopping at the first fault or refusal. -/
def runSteps : Nat → State → Host.Outcome State Fault Refusal
  | 0, s => .next s
  | k + 1, s =>
    match step s with
    | .next t => runSteps k t
    | .fault r => .fault r
    | .refused r => .refused r

/-- The next `k` turns are the sequencer's. -/
def SequencerTurns (k : Nat) (s : State) : Prop := ∃ later, s.sched = List.replicate k Agent.sequencer ++ later

/-- The state a step or a run ends in, if it ends in one. -/
def nextState? : Host.Outcome State Fault Refusal → Option State
  | .next s => some s
  | .fault _ => none
  | .refused _ => none

/-- An infinite run: every state of the sequence is the step's answer to the one before. -/
def IsRun (r : Nat → State) : Prop := ∀ n, step (r n) = .next (r (n + 1))

/-- The next step is a poll whose read returns a ready value, whatever device model the value comes from (R143). -/
def ReadyPoll (s : State) : Prop :=
  s.phase = .poll ∧ s.nextAgent = .sequencer ∧ ready (s.takeTurn.readValue Config.offLsr) = true

/-- The premise THRE_EVENTUALLY of a run: within every Poll phase of it some RD_LSR answer is ready (R202). From every
point in Poll a ready poll comes, and the phase is Poll up to it. -/
def ThreEventually (r : Nat → State) : Prop :=
  ∀ n, (r n).phase = .poll → ∃ m, n ≤ m ∧ (∀ k, n ≤ k → k ≤ m → (r k).phase = .poll) ∧ ReadyPoll (r m)

/-- Weak fairness of the drain step: if it is enabled from some point of the run on, it is taken after that point
(R43, R202). -/
def WeakFairDrain (r : Nat → State) : Prop :=
  ∀ n, (∀ m, n ≤ m → (r m).drainEnabled = true) → ∃ m, n ≤ m ∧ (r m).nextAgent = .device

/-- A run is finished: no fault, Idle, every command of the host's stream delivered (R203). In Idle the last command
has completed (R152). -/
def finished (s : State) : Bool :=
  decide (s.fault = none) && decide (s.phase = .idle) && decide (s.pending = [])

/-! ## The events a command appends -/

/-- The four writes of one RESET sequence (R120). -/
def resetEvents (c : Config) : List Event :=
  [ .w (portAddr Config.offLcr) c.dlabWriteValue
  , .w (portAddr Config.offDll) (divisorLow c)
  , .w (portAddr Config.offDlm) (divisorHigh c)
  , .w (portAddr Config.offLcr) c.lcrFormat ]

/-- The poll count of R149: the least `k` with the `k`-th answer ready; none if no answer is. -/
def pollCount : List Byte → Option Nat
  | [] => none
  | a :: as => if ready a then some 1 else (pollCount as).map (· + 1)

/-- The reads of one Poll phase, up to and including the first ready one, and the answers left after them. -/
def pollEvents : List Byte → Option (List Event × List Byte)
  | [] => none
  | a :: as =>
    if ready a then some ([.r (portAddr Config.offLsr) a], as)
    else (pollEvents as).map fun p => (.r (portAddr Config.offLsr) a :: p.1, p.2)

/-- The events of a transmit command for the bytes it sends (R153) and the answers left; none if the answers run out
before the last byte's ready one. -/
def transmitEvents : List Byte → List Byte → Option (List Event × List Byte)
  | [], answers => some ([], answers)
  | b :: bs, answers =>
    match pollEvents answers with
    | none => none
    | some (es, left) =>
      match transmitEvents bs left with
      | none => none
      | some (fs, left') => some (es ++ .w (portAddr Config.offData) b :: fs, left')

/-- The byte an event writes, none for a read. -/
def writtenByte : Event → Option Byte
  | .w _ v => some v
  | .r _ _ => none

/-- Whether an event is a write. -/
def isWrite : Event → Bool
  | .w _ _ => true
  | .r _ _ => false

/-- The bytes a trace writes, in order (R148). -/
def writtenBytes (es : List Event) : List Byte := es.filterMap writtenByte

/-- The writes of a trace (R201). -/
def countWrites (es : List Event) : Nat := es.countP isWrite

/-- The reads of a trace (R201). -/
def countReads (es : List Event) : Nat := es.countP fun e => !isWrite e

/-! ## The discipline of a trace -/

/-- The value of the last LCR write of a trace, none if there is none (R38). -/
def lastLcrWrite (es : List Event) : Option Byte :=
  es.foldl (fun last e => match e with
    | .w p v => if p = portAddr Config.offLcr then some v else last
    | .r _ _ => last) none

/-- What a reading of a trace knows so far: the device's DLAB, whether the last event was a ready LSR read, and whether
every data write so far came straight after one (R195). -/
structure Scan where
  dlab : Bool
  armed : Bool
  ok : Bool
  deriving DecidableEq, Repr

/-- Read one more event. A write of offset 0 with DLAB clear is a data write. -/
def scanEvent (c : Scan) : Event → Scan
  | .w p v =>
    if p = portAddr Config.offLcr then ⟨dlabOf v, false, c.ok⟩
    else if p = portAddr Config.offData ∧ c.dlab = false then ⟨c.dlab, false, c.ok && c.armed⟩
    else ⟨c.dlab, false, c.ok⟩
  | .r p v => ⟨c.dlab, decide (p = portAddr Config.offLsr) && ready v, c.ok⟩

/-- Read a trace from the start, the device's DLAB at launch being `d`. -/
def scanTrace (d : Bool) (es : List Event) : Scan := es.foldl scanEvent ⟨d, false, true⟩

/-! ## The block's invariant -/

/-- The step-1 value has the access bit set, as the default 0x80 and the alternative of C1 have (R122). -/
def opensWindow (c : Config) : Bool := dlabOf c.dlabWriteValue

/-- A fault only the reference device model raises (R171). -/
def isDeviceFault : FaultReason → Bool
  | .illegalCommand _ | .busyViolation _ => false
  | .unmodelledRegister _ _ | .thrOverrunHazard _ => true

/-- The phases in which a byte is in flight (R23). -/
def inTransmit : Phase → Bool
  | .poll | .send => true
  | .rst0 | .rst1 | .rst2 | .rst3 | .idle => false

/-- What holds in every state of a run whose device had DLAB `d` at launch: the configuration is admitted (R8) and opens
the window; a device that is there holds the LCR value last written, and so the DLAB a reading of the trace gives; that
DLAB is set in the window, and clear outside it once the cache is written (R38); the cache is unwritten only during the
launch RESET and then holds `LCR_FORMAT` (R21); every data write came straight after a ready read, and Send follows one,
with THRE still set in the reference device model (R195); `rest` is empty outside Poll and Send (R23); no device fault
was raised (R195). -/
structure BlockInv (d : Bool) (s : State) : Prop where
  config : s.cfg.wellFormed = true ∧ opensWindow s.cfg = true
  lastWrite : s.cfg.device ≠ .absent → ∀ v, lastLcrWrite s.trace = some v → s.dev.lcr = v
  scanDlab : s.cfg.device ≠ .absent → (scanTrace d s.trace).dlab = s.dlab
  scanOk : (scanTrace d s.trace).ok = true
  window : s.phase.inWindow = true → (scanTrace d s.trace).dlab = true
  closed : s.lcr ≠ none → s.phase.inWindow = false → (scanTrace d s.trace).dlab = false
  cacheUnwritten : s.lcr = none → s.phase.inReset = true
  cacheFormat : ∀ v, s.lcr = some v → v = s.cfg.lcrFormat
  sendReady : s.phase = .send → (scanTrace d s.trace).armed = true
  sendThre : s.phase = .send → s.cfg.device = .reference → s.dev.thre = true
  restEmpty : inTransmit s.phase = false → s.rest = []
  faultKind : ∀ r, s.fault = some r → isDeviceFault r = false

end Sys2Proof.Safety
end

