-- ==== Sys2Proof/Certificates/Slice0/Obligations.lean ====
section
/-!
DEFINITION. The statements for the provers: what the numbered rules of spec/ say the block does.
-/

open Sys2Proof Sys2Proof.Machine Sys2Proof.Safety

/-! ## Encoding -/

/-- R71 to R73, R76, R77: decoding the encoding of a well-formed instruction gives it back, whatever follows it. The
byte layout of bus transactions is the model's (log 2). -/
def Obligations.EncodeDecodeRoundTrip : Prop :=
  ∀ (i : Instr) (tail : List Byte), i.wellFormed = true → decodeAt i.level (encode i ++ tail) = .ok i tail

/-- R71 to R73: whatever the host decoder reads is a well-formed host command, and the bytes it read are exactly that
command's encoding. -/
def Obligations.DecodedBytesAreTheEncoding : Prop :=
  ∀ (bs rest : List Byte) (i : Instr), decodeCommand bs = .ok i rest →
    i.wellFormed = true ∧ i.level = .command ∧ bs = encode i ++ rest

/-- R75: a stream of whole commands decodes to those commands; a stream cut inside a command is refused as
`Truncated` with the position of the first missing byte; that the position is counted over the whole stream, the
commands before the cut one included, is the model's reading (log 19). -/
def Obligations.StreamDecodesOrIsTruncated : Prop :=
  ∀ is : List Instr, (∀ i ∈ is, i.wellFormed = true ∧ i.level = .command) →
    decodeStream (is.flatMap encode) = .commands is none ∧
    ∀ (i : Instr) (k : Nat), i.wellFormed = true → i.level = .command → 0 < k → k < (encode i).length →
      decodeStream (is.flatMap encode ++ (encode i).take k) = .truncated ((is.flatMap encode).length + k)

/-- R74: every opcode byte from 0x04 to 0xFF is illegal, whatever follows it, and ends the decoded stream. -/
def Obligations.ReservedOpcodesAreIllegal : Prop :=
  ∀ (op : Byte) (bs : List Byte), 4 ≤ op.toNat →
    decodeCommand (op :: bs) = .illegal op bs ∧ decodeStream (op :: bs) = .commands [] (some op)

/-- R72, R77 and the vectors of 95_test_vectors.md (V1, section 2.4): words written out from the encodings. -/
def Obligations.SpecWordsDecode : Prop :=
  decodeCommand [0x00#8] = .ok .reset [] ∧
  decodeCommand [0x01#8, 0x41#8] = .ok (.writeByte 0x41#8) [] ∧
  decodeCommand [0x02#8, 0x02#8, 0x00#8, 0x41#8, 0x42#8, 0x03#8] = .ok (.write [0x41#8, 0x42#8]) [0x03#8] ∧
  decodeCommand [0x03#8] = .ok .newline [] ∧
  decodeBus [0x1B#8, 0x80#8] = .ok (.wrLcr 0x80#8) [] ∧
  decodeBus [0x18#8, 0x01#8] = .ok (.wrDll 0x01#8) [] ∧
  decodeBus [0x19#8, 0x00#8] = .ok (.wrDlm 0x00#8) [] ∧
  decodeBus [0x08#8, 0x41#8] = .ok (.wrThr 0x41#8) [] ∧
  decodeBus [0x15#8] = .ok .rdLsr [] ∧
  decodeBus [0x09#8, 0x41#8] = .unmodelled 0x09#5

/-- R76, R77, R78: the register each select key reaches, for every DLAB, direction and offset; all other keys are
unmodelled. -/
def Obligations.SelectKeysDecodeAsTabled : Prop :=
  ∀ (dlab write : Bool) (off : Offset), decodeSelect (selectKey dlab write off) =
    if write = true ∧ off = 0#3 then some (if dlab then .wrDll else .wrThr)
    else if write = true ∧ off = 1#3 ∧ dlab = true then some .wrDlm
    else if write = true ∧ off = 3#3 then some .wrLcr
    else if write = false ∧ off = 5#3 then some .rdLsr
    else none

/-! ## Operands and flags -/

/-- R52: every transaction addresses `IOPORT + zext_16(off)`, which never wraps. -/
def Obligations.TransactionPortIsBasePlusOffset : Prop :=
  (∀ off : Offset, portAddr off = 0x3F8#16 + off.setWidth 16 ∧ (portAddr off).toNat = 0x3F8 + off.toNat ∧
    (portAddr off).toNat ≤ 0x3FF) ∧
  ∀ (off : Offset) (v : Byte) (s : State),
    (s.portWrite off v).trace = s.trace ++ [.w (portAddr off) v] ∧
    (s.portRead off).trace = s.trace ++ [.r (portAddr off) (s.readValue off)]

/-- R141: the ready predicate is the THRE mask test, that is bit 5; the other bits are ignored. -/
def Obligations.ThreTestIsBitFive : Prop :=
  (∀ v : Byte, (ready v = true ↔ v &&& 0x20#8 ≠ 0#8) ∧ ready v = v.getLsbD 5) ∧
  (∀ v w : Byte, v.getLsbD 5 = w.getLsbD 5 → ready v = ready w) ∧
  ready 0x20#8 = true ∧ ready 0x60#8 = true ∧ ready 0xFF#8 = true ∧
  ready 0x00#8 = false ∧ ready 0x40#8 = false ∧ ready 0xDF#8 = false

/-! ## Host commands -/

/-- R121: RESET in Idle completes its admission: `phase <- Rst0` and nothing else. -/
def Obligations.ResetAdmission : Prop :=
  ∀ s : State, s.fault = none → s.phase = .idle → exec .reset s = .next { s with phase := .rst0 }

/-- R142: WRITE_BYTE in Idle: `cur <- b; rest <- []; phase <- Poll` and nothing else. -/
def Obligations.WriteByteAdmission : Prop :=
  ∀ (b : Byte) (s : State), s.fault = none → s.phase = .idle →
    exec (.writeByte b) s = .next { s with cur := b, rest := [], phase := .poll }

/-- R145: WRITE of at least one byte in Idle: `cur` and `rest` take the bytes in order, `phase <- Poll`, nothing else;
a string of length 1 is admitted as WRITE_BYTE is. -/
def Obligations.WriteAdmission : Prop :=
  ∀ (b : Byte) (bs : List Byte) (s : State), s.fault = none → s.phase = .idle →
    exec (.write (b :: bs)) s = .next { s with cur := b, rest := bs, phase := .poll } ∧
    exec (.write [b]) s = exec (.writeByte b) s

/-- R147: the empty WRITE issues no transaction, leaves all state unchanged and is complete at once; `busy` stays 0. -/
def Obligations.EmptyWriteChangesNothing : Prop :=
  ∀ s : State, s.fault = none → s.phase = .idle → exec (.write []) s = .next s ∧ s.busy = false

/-- R146: NEWLINE is WRITE of `NEWLINE_SEQ`; in Idle it completes its admission for every sequence. -/
def Obligations.NewlineAdmission : Prop :=
  (∀ s : State, exec .newline s = exec (.write s.cfg.newlineSeq) s) ∧
  (∀ s : State, s.fault = none → s.phase = .idle → s.cfg.newlineSeq = [] → exec .newline s = .next s) ∧
  (∀ (b : Byte) (bs : List Byte) (s : State), s.fault = none → s.phase = .idle → s.cfg.newlineSeq = b :: bs →
    exec .newline s = .next { s with cur := b, rest := bs, phase := .poll })

/-- R181, R177: a delivery to a busy block raises `BusyViolation` with the phase, whatever the bytes are, and from
then on no agent takes a step. The position in the stream does not move (log 18), and that a faulted block's step is
the outcome `halted` is the model's (log 10). -/
def Obligations.BusyDeliveryFaults : Prop :=
  ∀ s : State, s.fault = none → s.nextAgent = .host → s.pending ≠ [] → s.phase ≠ .idle →
    step s = .next { s.takeTurn with fault := some (.busyViolation s.phase) } ∧
    step { s.takeTurn with fault := some (.busyViolation s.phase) } = .fault (.halted (.busyViolation s.phase))

/-- R177, R181: each of the four commands, delivered to a busy block, raises `BusyViolation` and does nothing else. -/
def Obligations.BusyCommandsFault : Prop :=
  ∀ (i : Instr) (s : State), i.level = .command → s.fault = none → s.phase ≠ .idle →
    exec i s = .next { s with fault := some (.busyViolation s.phase) }

/-- R74, R171: a reserved opcode delivered in Idle raises `IllegalCommand` with that byte; one byte is consumed and
nothing else changes. The stream position is the model's (log 18). -/
def Obligations.IllegalOpcodeFaults : Prop :=
  ∀ (s : State) (op : Byte) (bs : List Byte), s.fault = none → s.nextAgent = .host → s.phase = .idle →
    s.pending = op :: bs → 4 ≤ op.toNat →
    step s = .next { s.takeTurn with hostPos := s.hostPos + 1, fault := some (.illegalCommand op) }

/-- R75: when the host's stream ends inside a command, the delivery is refused with the byte position (in the whole
stream, log 19). -/
def Obligations.TruncatedDeliveryRefused : Prop :=
  ∀ (s : State) (i : Instr) (k : Nat), s.fault = none → s.nextAgent = .host → s.phase = .idle →
    i.wellFormed = true → i.level = .command → 0 < k → k < (encode i).length → s.pending = (encode i).take k →
    step s = .refused (.truncated (s.hostPos + k))

/-- R11, R71, R180: when the host moves in Idle and the bytes it delivers are the encoding of a well-formed command,
the step is that command's meaning, the stream's position being moved past the command. The stream and the turns are
the model's inputs (logs 3 and 4). -/
def Obligations.HostStepRunsTheCommand : Prop :=
  ∀ (s : State) (i : Instr) (tail : List Byte), s.fault = none → s.nextAgent = .host → s.phase = .idle →
    i.wellFormed = true → i.level = .command → s.pending = encode i ++ tail →
    step s = exec i { s.takeTurn with hostPos := s.hostPos + (encode i).length }

/-- R204, R151: in Idle a host with nothing left to deliver, and the sequencer, only give up their turn. That such a
turn is a step is the model's (log 12). -/
def Obligations.IdleWaits : Prop :=
  ∀ s : State, s.fault = none → s.phase = .idle →
    (s.nextAgent = .sequencer → step s = .next s.takeTurn) ∧
    (s.nextAgent = .host → s.pending = [] → step s = .next s.takeTurn)

/-- Frame of the host commands (R121, R142, R145, R146, R172): they issue no transaction and change no register but
`phase`, `cur`, `rest` and, on a busy block, `fault`; RESET leaves `cur` and `rest` as they are; a fault leaves all
three. -/
def Obligations.CommandFrame : Prop :=
  ∀ (i : Instr) (s t : State), i.level = .command → exec i s = .next t →
    t.cfg = s.cfg ∧ t.lcr = s.lcr ∧ t.trace = s.trace ∧ t.dev = s.dev ∧ t.hostStream = s.hostStream ∧
    t.hostPos = s.hostPos ∧ t.lsrIn = s.lsrIn ∧ t.sched = s.sched ∧ t.draws = s.draws ∧
    (i = .reset → t.cur = s.cur ∧ t.rest = s.rest) ∧
    (s.phase = .idle → t.fault = none) ∧
    (s.phase ≠ .idle → t.phase = s.phase ∧ t.cur = s.cur ∧ t.rest = s.rest)

/-! ## Bus transactions -/

/-- R101: WR_LCR completes in either DLAB state: one event, and the device's LCR takes the value (DLAB its bit 7).
The oracle model keeps the register file too (log 13). An absent device takes nothing (R173). -/
def Obligations.WrLcrEffect : Prop :=
  ∀ (v : Byte) (s : State), s.fault = none →
    exec (.wrLcr v) s =
      .next { s with
        trace := s.trace ++ [.w 0x3FB#16 v]
        dev := if s.cfg.device = .absent then s.dev else { s.dev with lcr := v } }

/-- R102: WR_DLL with the device's DLAB set: one event, and DLL takes the value. R31: a write of offset 0 meant as
data in that state, WR_THR, is a write of DLL too. An absent device takes nothing (R173). The oracle model keeps the
register file too (log 13); reading the key's DLAB from the device is log 15. -/
def Obligations.WrDllEffect : Prop :=
  ∀ (i : Instr) (v : Byte) (s : State), (i = .wrDll v ∨ i = .wrThr v) → s.fault = none →
    s.dev.lcr.getLsbD 7 = true →
    exec i s =
      .next { s with
        trace := s.trace ++ [.w 0x3F8#16 v]
        dev := if s.cfg.device = .absent then s.dev else { s.dev with dll := v } }

/-- R103, R106: WR_DLM with the device's DLAB set: one event, and DLM takes the value. With DLAB clear offset 1 is
unmodelled: the reference device model raises `UnmodelledRegister` with key and port, the oracle model records the
event only. An absent device takes nothing (R173). Logs 13 and 15. -/
def Obligations.WrDlmEffect : Prop :=
  ∀ (v : Byte) (s : State), s.fault = none →
    (s.dev.lcr.getLsbD 7 = true →
      exec (.wrDlm v) s =
        .next { s with
          trace := s.trace ++ [.w 0x3F9#16 v]
          dev := if s.cfg.device = .absent then s.dev else { s.dev with dlm := v } }) ∧
    (s.dev.lcr.getLsbD 7 = false → s.cfg.device = .reference →
      exec (.wrDlm v) s =
        .next { s with
          trace := s.trace ++ [.w 0x3F9#16 v]
          fault := some (.unmodelledRegister 0x09#5 0x3F9#16) }) ∧
    (s.dev.lcr.getLsbD 7 = false → s.cfg.device ≠ .reference →
      exec (.wrDlm v) s = .next { s with trace := s.trace ++ [.w 0x3F9#16 v] })

/-- R104, R102: a write of offset 0 with DLAB clear is WR_THR, also when it was meant as WR_DLL. In the reference
device model with THRE set: THR takes the byte, THRE falls, the byte goes to the wire. In the oracle model: the
event, and THR (log 13). Without a device: the event (R173). Log 15. -/
def Obligations.WrThrEffect : Prop :=
  ∀ (i : Instr) (v : Byte) (s : State), (i = .wrThr v ∨ i = .wrDll v) → s.fault = none →
    s.dev.lcr.getLsbD 7 = false →
    (s.cfg.device = .oracle →
      exec i s = .next { s with trace := s.trace ++ [.w 0x3F8#16 v], dev := { s.dev with thr := v } }) ∧
    (s.cfg.device = .absent → exec i s = .next { s with trace := s.trace ++ [.w 0x3F8#16 v] }) ∧
    (s.cfg.device = .reference → s.dev.thre = true →
      exec i s =
        .next { s with
          trace := s.trace ++ [.w 0x3F8#16 v]
          dev := { s.dev with thr := v, thre := false, wire := s.dev.wire ++ [v] } })

/-- R104, R102, R171: in the reference device model a data write while THRE is 0, a WR_DLL that reaches the data
register with DLAB clear among them (log 15), raises `ThrOverrunHazard` with the byte; the event is still recorded
and nothing else changes (R172). -/
def Obligations.ThrOverrunFaults : Prop :=
  ∀ (i : Instr) (v : Byte) (s : State), (i = .wrThr v ∨ i = .wrDll v) → s.fault = none →
    s.dev.lcr.getLsbD 7 = false → s.cfg.device = .reference → s.dev.thre = false →
    exec i s =
      .next { s with trace := s.trace ++ [.w 0x3F8#16 v], fault := some (.thrOverrunHazard v) }

/-- R105, R57: RD_LSR completes in every state without a fault, in either DLAB state: the oracle's next answer is
used up and one event records the value read, which in the oracle model, and without a device (R63), is that answer
and in the reference device model has THRE in bit 5 and the answer's other bits. The listed answers are used in
order. Nothing else changes. The list of answers is the model's input (log 5). -/
def Obligations.RdLsrEffect : Prop :=
  ∀ s : State, s.fault = none →
    ∃ v : Byte,
      exec .rdLsr s = .next { s.takeAnswer with trace := s.trace ++ [.r 0x3FD#16 v] } ∧
      (s.cfg.device ≠ .reference → v = s.nextAnswer) ∧
      (s.cfg.device = .reference → v.getLsbD 5 = s.dev.thre ∧
        ∀ k, k ≠ 5 → v.getLsbD k = s.nextAnswer.getLsbD k) ∧
      ∀ (a : Byte) (as : List Byte), s.lsrIn = a :: as → s.nextAnswer = a ∧ s.takeAnswer = { s with lsrIn := as }

/-- R106: a port transaction whose select key matches no row: the event is recorded; the reference device model
raises `UnmodelledRegister` with the key and the port, the oracle model gives it no meaning, and without a device
nothing more happens (R63). The device's registers do not change. What a recorded read returns is the model's (log
23). -/
def Obligations.UnmodelledAccess : Prop :=
  ∀ (off : Offset) (v : Byte) (s : State),
    (decodeSelect (selectKey s.dlab true off) = none →
      (s.cfg.device ≠ .reference →
        s.portWrite off v = { s with trace := s.trace ++ [.w (portAddr off) v] }) ∧
      (s.cfg.device = .reference →
        s.portWrite off v = { s with
          trace := s.trace ++ [.w (portAddr off) v]
          fault := some (.unmodelledRegister (selectKey s.dlab true off) (portAddr off)) })) ∧
    (decodeSelect (selectKey s.dlab false off) = none →
      (s.cfg.device ≠ .reference →
        s.portRead off = { s.takeAnswer with trace := s.trace ++ [.r (portAddr off) (s.readValue off)] }) ∧
      (s.cfg.device = .reference →
        s.portRead off = { s.takeAnswer with
          trace := s.trace ++ [.r (portAddr off) (s.readValue off)]
          fault := some (.unmodelledRegister (selectKey s.dlab false off) (portAddr off)) }))

/-- Frame of the bus transactions (R100 to R105): exactly one event; no sequencer register is written; of the
device's registers at most the one the rule of the transaction names, a write of offset 0 reaching DLL or the data
register (log 15); RD_LSR writes none; in the oracle model no fault, and THRE and the wire untouched (log 14); and no
register of an absent device (R173). -/
def Obligations.TransactionFrame : Prop :=
  ∀ (i : Instr) (s t : State), i.level = .bus → exec i s = .next t →
    t.cfg = s.cfg ∧ t.phase = s.phase ∧ t.lcr = s.lcr ∧ t.cur = s.cur ∧ t.rest = s.rest ∧
    t.hostStream = s.hostStream ∧ t.hostPos = s.hostPos ∧ t.sched = s.sched ∧
    (∃ e, t.trace = s.trace ++ [e]) ∧
    (i ≠ .rdLsr → t.lsrIn = s.lsrIn ∧ t.draws = s.draws) ∧
    (i = .rdLsr → t.dev = s.dev) ∧
    ((∀ v, i ≠ .wrLcr v) → t.dev.lcr = s.dev.lcr) ∧
    ((∀ v, i ≠ .wrDlm v) → t.dev.dlm = s.dev.dlm) ∧
    ((∀ v, i ≠ .wrDll v) → (∀ v, i ≠ .wrThr v) →
      t.dev.dll = s.dev.dll ∧ t.dev.thr = s.dev.thr ∧ t.dev.thre = s.dev.thre ∧ t.dev.wire = s.dev.wire) ∧
    (s.cfg.device ≠ .reference → t.fault = none ∧ t.dev.thre = s.dev.thre ∧ t.dev.wire = s.dev.wire) ∧
    (s.cfg.device = .absent → t.dev = s.dev)

/-! ## Steps -/

/-- R172, R177, R179: in a faulted state no agent takes a step and no delivery is admitted, RESET among them. That
the end is a fault outcome is the model's (log 10). -/
def Obligations.FaultedBlockStops : Prop :=
  ∀ (s : State) (r : FaultReason), s.fault = some r →
    step s = .fault (.halted r) ∧ ∀ i : Instr, exec i s = .fault (.halted r)

/-- R22, R100: when the sequencer moves, its step is the transaction of its phase, run by `exec`, and then the update of
the sequencer's registers that the phase's rule gives, unless the transaction raised a fault. -/
def Obligations.SequencerStepRunsTheTransaction : Prop :=
  ∀ s : State, s.fault = none → s.nextAgent = .sequencer →
    (s.phase = .rst0 → step s = issue (.wrLcr s.cfg.dlabWriteValue) (State.goto .rst1) s.takeTurn) ∧
    (s.phase = .rst1 → step s = issue (.wrDll (divisorLow s.cfg)) (State.goto .rst2) s.takeTurn) ∧
    (s.phase = .rst2 → step s = issue (.wrDlm (divisorHigh s.cfg)) (State.goto .rst3) s.takeTurn) ∧
    (s.phase = .rst3 →
      step s = issue (.wrLcr s.cfg.lcrFormat) (State.goto .idle) { s.takeTurn with lcr := some s.cfg.lcrFormat }) ∧
    (s.phase = .poll →
      step s = issue .rdLsr
        (State.goto (if ready (s.takeTurn.readValue Config.offLsr) then .send else .poll)) s.takeTurn) ∧
    (s.phase = .send → step s = issue (.wrThr s.cur) State.advance s.takeTurn)

/-- R122: micro-step Rst0. The oracle model's device takes the value too (log 13), an absent one does not (R173). -/
def Obligations.Rst0Step : Prop :=
  ∀ s : State, s.fault = none → s.nextAgent = .sequencer → s.phase = .rst0 →
    step s = .next { s.takeTurn with
      phase := .rst1
      trace := s.trace ++ [.w 0x3FB#16 s.cfg.dlabWriteValue]
      dev := if s.cfg.device = .absent then s.dev else { s.dev with lcr := s.cfg.dlabWriteValue } }

/-- R123, R124: micro-steps Rst1 and Rst2, the device's DLAB being set if there is a device: low byte, then high
byte. That DLL and DLM take the bytes in the oracle model too is the model's reading (log 13); an absent device takes
nothing (R173). -/
def Obligations.DivisorSteps : Prop :=
  ∀ s : State, s.fault = none → s.nextAgent = .sequencer → (s.cfg.device ≠ .absent → s.dev.lcr.getLsbD 7 = true) →
    (s.phase = .rst1 →
      step s = .next { s.takeTurn with
        phase := .rst2
        trace := s.trace ++ [.w 0x3F8#16 (s.cfg.divisor.extractLsb' 0 8)]
        dev := if s.cfg.device = .absent then s.dev else { s.dev with dll := s.cfg.divisor.extractLsb' 0 8 } }) ∧
    (s.phase = .rst2 →
      step s = .next { s.takeTurn with
        phase := .rst3
        trace := s.trace ++ [.w 0x3F9#16 (s.cfg.divisor.extractLsb' 8 8)]
        dev := if s.cfg.device = .absent then s.dev else { s.dev with dlm := s.cfg.divisor.extractLsb' 8 8 } })

/-- R125: micro-step Rst3: the cache and the device's LCR both take `LCR_FORMAT`, in the oracle model too (log 13);
an absent device takes nothing (R173). -/
def Obligations.Rst3Step : Prop :=
  ∀ s : State, s.fault = none → s.nextAgent = .sequencer → s.phase = .rst3 →
    step s = .next { s.takeTurn with
      phase := .idle
      lcr := some s.cfg.lcrFormat
      trace := s.trace ++ [.w 0x3FB#16 s.cfg.lcrFormat]
      dev := if s.cfg.device = .absent then s.dev else { s.dev with lcr := s.cfg.lcrFormat } }

/-- R143: micro-step Poll is taken whatever the answer is; one read, tested in the same step; to Send if it is ready,
else it stays in Poll; the value is kept nowhere but in the trace. -/
def Obligations.PollStep : Prop :=
  ∀ s : State, s.fault = none → s.nextAgent = .sequencer → s.phase = .poll →
    ∃ v : Byte,
      v = s.takeTurn.readValue Config.offLsr ∧
      step s = .next { s.takeTurn.takeAnswer with
        phase := if v.getLsbD 5 then .send else .poll
        trace := s.trace ++ [.r 0x3FD#16 v] }

/-- R144, R152: micro-step Send with DLAB clear if there is a device (and, in the reference device model, THRE set):
the byte in flight is written; the next byte polls again, and after the last one the block is Idle. What `cur` holds
then is not stated: it is undefined (R23, log 9). -/
def Obligations.SendStep : Prop :=
  ∀ s : State, s.fault = none → s.nextAgent = .sequencer → s.phase = .send →
  (s.cfg.device ≠ .absent → s.dev.lcr.getLsbD 7 = false) →
    (s.cfg.device = .reference → s.dev.thre = true) →
    ∃ t : State, step s = .next t ∧
      t.trace = s.trace ++ [.w 0x3F8#16 s.cur] ∧ t.fault = none ∧ t.lcr = s.lcr ∧ t.cfg = s.cfg ∧
      t.lsrIn = s.lsrIn ∧ t.hostStream = s.hostStream ∧ t.hostPos = s.hostPos ∧
      (s.rest = [] → t.phase = .idle ∧ t.rest = []) ∧
      (∀ b bs, s.rest = b :: bs → t.phase = .poll ∧ t.cur = b ∧ t.rest = bs) ∧
      t.dev.lcr = s.dev.lcr ∧ t.dev.dll = s.dev.dll ∧ t.dev.dlm = s.dev.dlm ∧
      (s.cfg.device = .reference →
        t.dev.thr = s.cur ∧ t.dev.thre = false ∧ t.dev.wire = s.dev.wire ++ [s.cur])

/-- R43: the device's step sets THRE in the reference device model and changes nothing else; it does nothing where
the drain step is not enabled. That a turn with no enabled drain is a step is the model's (log 12). -/
def Obligations.DrainStep : Prop :=
  ∀ s : State, s.fault = none → s.nextAgent = .device →
    (s.cfg.device = .reference → step s = .next { s.takeTurn with dev := { s.dev with thre := true } }) ∧
    (s.cfg.device ≠ .reference → step s = .next s.takeTurn)

/-! ## Runs of a command -/

/-- R120: one RESET sequence issues exactly the four writes of the rule, in order, and no read; it consumes no LSR
answer (V8), leaves the cache as R125 says and the device's LCR, DLL and DLM as R127 says, in the oracle model too
(log 13); an absent device keeps what it had (R173). That the step-1 value has bit 7 set is a premise of the model
(log 20). -/
def Obligations.ResetSequence : Prop :=
  ∀ s : State, s.fault = none → s.phase = .rst0 → opensWindow s.cfg = true → SequencerTurns 4 s →
    ∃ t : State, runSteps 4 s = .next t ∧
      t.trace = s.trace ++
        [ .w 0x3FB#16 s.cfg.dlabWriteValue, .w 0x3F8#16 (s.cfg.divisor.extractLsb' 0 8)
        , .w 0x3F9#16 (s.cfg.divisor.extractLsb' 8 8), .w 0x3FB#16 s.cfg.lcrFormat ] ∧
      t.phase = .idle ∧ t.lcr = some s.cfg.lcrFormat ∧ t.rest = s.rest ∧ t.fault = none ∧ t.lsrIn = s.lsrIn ∧
      (s.cfg.device ≠ .absent →
        t.dev.lcr = s.cfg.lcrFormat ∧ t.dev.dll = s.cfg.divisor.extractLsb' 0 8 ∧
        t.dev.dlm = s.cfg.divisor.extractLsb' 8 8) ∧
      (s.cfg.device = .absent → t.dev = s.dev) ∧ t.dev.thr = s.dev.thr ∧ t.dev.thre = s.dev.thre ∧
      t.dev.wire = s.dev.wire

/-- R8, R190: a launch with an ill-formed configuration is refused; any other launch, whatever the device registers
hold, gives the state of R40. The empty wire at launch is the model's (log 22). -/
def Obligations.LaunchState : Prop :=
  ∀ (c : Config) (d : Uart),
    ((c.lcrFormat.getLsbD 7 = true ∨ c.divisor = 0#16) → State.launch c d = .refused .illFormedConfig) ∧
    (c.lcrFormat.getLsbD 7 = false → c.divisor ≠ 0#16 →
      ∃ s : State, State.launch c d = .next s ∧ s.phase = .rst0 ∧ s.lcr = none ∧ s.rest = [] ∧ s.fault = none ∧
        s.trace = [] ∧ s.cfg = c ∧ s.busy = true ∧ s.dev = { d with wire := [] })

/-- R40, R126, R193: every launch, if the sequencer gets four turns, runs the RESET sequence by itself and ends it in
Idle with the values of R40. That the step-1 value has bit 7 set is a premise of the model (log 20). -/
def Obligations.LaunchRunsReset : Prop :=
  ∀ (c : Config) (d : Uart) (s : State) (stream answers : List Byte) (order : List Agent),
    State.launch c d = .next s → opensWindow c = true →
    ∃ t : State,
      runSteps 4 (s.withInputs stream answers (List.replicate 4 .sequencer ++ order)) = .next t ∧
      t.phase = .idle ∧ t.lcr = some c.lcrFormat ∧ t.rest = [] ∧ t.fault = none ∧ t.trace = resetEvents c ∧
      t.hostPos = 0 ∧ t.lsrIn = answers

/-- R127: from Idle, one RESET and two RESETs leave the same device LCR, DLL and DLM, the same cache, phase, `rest`
and `fault`, namely the rule's values where there is a device (in the oracle model by log 13); the traces differ by
the four events once more. That the step-1 value has bit 7 set is a premise of the model (log 20). -/
def Obligations.ResetIsIdempotent : Prop :=
  ∀ s : State, s.fault = none → s.phase = .idle → s.rest = [] → opensWindow s.cfg = true → SequencerTurns 8 s →
    ∃ a t b u : State,
      exec .reset s = .next a ∧ runSteps 4 a = .next t ∧ exec .reset t = .next b ∧ runSteps 4 b = .next u ∧
      (s.cfg.device ≠ .absent →
        t.dev.lcr = s.cfg.lcrFormat ∧ t.dev.dll = divisorLow s.cfg ∧ t.dev.dlm = divisorHigh s.cfg) ∧
      t.lcr = some s.cfg.lcrFormat ∧ t.phase = .idle ∧ t.rest = [] ∧ t.fault = none ∧
      u.dev.lcr = t.dev.lcr ∧ u.dev.dll = t.dev.dll ∧ u.dev.dlm = t.dev.dlm ∧ u.lcr = t.lcr ∧
      u.phase = t.phase ∧ u.rest = t.rest ∧ u.fault = t.fault ∧
      t.trace = s.trace ++ resetEvents s.cfg ∧ u.trace = t.trace ++ resetEvents s.cfg

/-- R149: in the oracle model, and without a device (R63), the byte's write is issued straight after the `k`-th read,
`k` being the least index of a ready answer, and exactly `k` reads precede it. The answers and the turns are the
model's inputs (logs 4 and 5). -/
def Obligations.PollCount : Prop :=
  ∀ (s : State) (k : Nat), s.fault = none → s.phase = .poll → s.cfg.device ≠ .reference → pollCount s.lsrIn = some k →
    SequencerTurns (k + 1) s →
    ∃ t : State, runSteps (k + 1) s = .next t ∧
      t.trace = s.trace ++ (s.lsrIn.take k).map (Event.r 0x3FD#16) ++ [.w 0x3F8#16 s.cur] ∧
      t.lsrIn = s.lsrIn.drop k ∧
      (∀ j, j + 1 < k → ready (s.lsrIn.getD j 0#8) = false) ∧ ready (s.lsrIn.getD (k - 1) 0#8) = true

/-- R150, R186: while no answer is ready the sequencer stays in Poll, one read a step, for every number of steps; no
data write is issued and `cur`, `rest` and the cache are kept. The answers and the turns are the model's inputs (logs
4 and 5). -/
def Obligations.NeverReadyHangs : Prop :=
  ∀ (s : State) (us later : List Byte), s.fault = none → s.phase = .poll → s.cfg.device ≠ .reference →
    s.lsrIn = us ++ later → (∀ u ∈ us, ready u = false) → SequencerTurns us.length s →
    ∃ t : State, runSteps us.length s = .next t ∧ t.phase = .poll ∧ t.busy = true ∧
      t.trace = s.trace ++ us.map (Event.r 0x3FD#16) ∧ t.cur = s.cur ∧ t.rest = s.rest ∧ t.lcr = s.lcr ∧
      t.fault = none

/-- R145, R148, R152, R153, under the premise of R202: in the oracle model, and without a device (R63), a WRITE of
any bytes, admitted in Idle, runs to completion in exactly as many steps as it has events; it appends, byte by byte
in order, the not-ready reads, the ready read and the write of that byte unchanged, and nothing else. The answers and
the turns are the model's inputs (logs 4 and 5). -/
def Obligations.WriteRunsToCompletion : Prop :=
  ∀ (bytes : List Byte) (s : State) (es : List Event) (left : List Byte), s.fault = none → s.phase = .idle →
    s.rest = [] → s.cfg.device ≠ .reference → transmitEvents bytes s.lsrIn = some (es, left) →
    SequencerTurns es.length s →
    ∃ a t : State, exec (.write bytes) s = .next a ∧ runSteps es.length a = .next t ∧
      t.trace = s.trace ++ es ∧ t.phase = .idle ∧ t.busy = false ∧ t.rest = [] ∧ t.fault = none ∧
      t.lsrIn = left ∧ t.lcr = s.lcr ∧ t.cfg = s.cfg

/-- R73: two WRITEs issued back to back give the trace that one WRITE of the joined bytes gives. The answers and the
turns are the model's inputs (logs 4 and 5). -/
def Obligations.WritesBackToBack : Prop :=
  ∀ (xs ys : List Byte) (s : State) (es : List Event) (left : List Byte), s.fault = none → s.phase = .idle →
    s.rest = [] → s.cfg.device ≠ .reference → transmitEvents (xs ++ ys) s.lsrIn = some (es, left) →
    SequencerTurns es.length s →
    ∃ (m n : Nat) (a t b u c v : State), m + n = es.length ∧
      exec (.write xs) s = .next a ∧ runSteps m a = .next t ∧ exec (.write ys) t = .next b ∧
      runSteps n b = .next u ∧ exec (.write (xs ++ ys)) s = .next c ∧ runSteps es.length c = .next v ∧
      u.trace = v.trace ∧ u.phase = .idle ∧ v.phase = .idle ∧ u.lsrIn = v.lsrIn

/-- R148, R153, R201, R202: the events a run of a transmit command appends hold exactly one write per byte, of that
byte, in order, and at least one read per byte. First for the listed answers and turns of WriteRunsToCompletion (logs
4 and 5); then for every infinite run that begins with the admission of the command and meets THRE_EVENTUALLY, in
each device model: the command completes, the block being busy until then. -/
def Obligations.TransmitCounts : Prop :=
  (∀ (bytes : List Byte) (s : State) (es : List Event) (left : List Byte), s.fault = none → s.phase = .idle →
    s.rest = [] → s.cfg.device ≠ .reference → transmitEvents bytes s.lsrIn = some (es, left) →
    SequencerTurns es.length s →
    ∃ a t : State, exec (.write bytes) s = .next a ∧ runSteps es.length a = .next t ∧ t.phase = .idle ∧
      t.trace = s.trace ++ es ∧ writtenBytes es = bytes ∧ countWrites es = bytes.length ∧
      bytes.length ≤ countReads es ∧ countReads es + countWrites es = es.length) ∧
  (∀ (bytes : List Byte) (s : State) (r : Nat → State), s.phase = .idle → exec (.write bytes) s = .next (r 0) →
    IsRun r → ThreEventually r →
    ∃ (m : Nat) (es : List Event), (∀ k, k < m → (r k).busy = true) ∧ (r m).phase = .idle ∧
      (r m).trace = s.trace ++ es ∧ (∀ e ∈ es, ∃ v, e = .w 0x3F8#16 v ∨ e = .r 0x3FD#16 v) ∧
      writtenBytes es = bytes ∧ countWrites es = bytes.length ∧ bytes.length ≤ countReads es ∧
      countReads es + countWrites es = es.length)

/-! ## Whole-machine rules -/

/-- R42: no step writes the configuration. That no step changes the host's stream either is the model's (log 3). -/
def Obligations.ConfigurationIsNeverWritten : Prop :=
  ∀ s t : State, step s = .next t → t.cfg = s.cfg ∧ t.hostStream = s.hostStream

/-- R11, R27, R58: a step issues at most one port transaction and appends exactly its event; a host or device step
issues none. -/
def Obligations.AtMostOneTransactionPerStep : Prop :=
  ∀ s t : State, step s = .next t →
    (∃ es : List Event, es.length ≤ 1 ∧ t.trace = s.trace ++ es) ∧
    (s.nextAgent ≠ .sequencer → t.trace = s.trace)

/-- R21: only Rst3 writes the LCR cache, and it writes `LCR_FORMAT`. -/
def Obligations.CacheWrittenOnlyByRst3 : Prop :=
  ∀ s t : State, step s = .next t →
    t.lcr = s.lcr ∨ (s.nextAgent = .sequencer ∧ s.phase = .rst3 ∧ t.lcr = some s.cfg.lcrFormat)

/-- R22: the phase changes only as the micro-steps and the admission of commands say. -/
def Obligations.PhaseTransitions : Prop :=
  ∀ s t : State, step s = .next t →
    t.phase = s.phase ∨
    (s.nextAgent = .sequencer ∧
      (s.phase, t.phase) ∈ [(Phase.rst0, Phase.rst1), (.rst1, .rst2), (.rst2, .rst3), (.rst3, .idle),
        (.poll, .send), (.send, .idle), (.send, .poll)]) ∨
    (s.nextAgent = .host ∧ s.phase = .idle ∧ (t.phase = .rst0 ∨ t.phase = .poll))

/-- R8, R21, R23, R38, R83, R128, R195, R197: every step keeps the block's invariant. It holds for a configuration
that R8 admits and whose step-1 value has the access bit set. That the step-1 value has bit 7 set is a premise of the
model (log 20). -/
def Obligations.StepKeepsBlockInv : Prop :=
  ∀ (d : Bool) (s t : State), BlockInv d s → step s = .next t → BlockInv d t

/-- R40, R41: the block's invariant holds at every launch, whatever the device registers hold, with any inputs, and
at `State.reset`. That the step-1 value has bit 7 set is a premise of the model (log 20). The values `State.reset`
gives the device are the model's (log 7). -/
def Obligations.LaunchHasBlockInv : Prop :=
  (∀ (c : Config) (d : Uart) (s : State) (stream answers : List Byte) (order : List Agent),
    State.launch c d = .next s → opensWindow c = true →
    BlockInv (dlabOf d.lcr) (s.withInputs stream answers order)) ∧
  BlockInv (dlabOf State.reset.dev.lcr) State.reset

/-- R38: once the first RESET sequence has completed, DLAB is 1 exactly in the phases Rst1 to Rst3: bit 7 of the last
LCR write of the trace, and of the LCR of a device that is there, which holds that last write. R197: while the cache
is unwritten, before the first RESET sequence has completed, no step appends a data write, in the DLAB state the
trace gives and in the device's. The invariant has a premise of the model (log 20). -/
def Obligations.DlabWindow : Prop :=
  ∀ (d : Bool) (s t : State), BlockInv d s → step s = .next t →
    (t.lcr ≠ none → ∀ v, lastLcrWrite t.trace = some v →
      (v.getLsbD 7 = true ↔ t.phase = .rst1 ∨ t.phase = .rst2 ∨ t.phase = .rst3)) ∧
    (t.cfg.device ≠ .absent →
      (t.lcr ≠ none → (t.dev.lcr.getLsbD 7 = true ↔ t.phase = .rst1 ∨ t.phase = .rst2 ∨ t.phase = .rst3)) ∧
      (∀ v, lastLcrWrite t.trace = some v → t.dev.lcr = v)) ∧
    (s.lcr = none → ∀ es, t.trace = s.trace ++ es → ∀ e ∈ es,
      e.select (scanTrace d s.trace).dlab ≠ some .wrThr ∧ (s.cfg.device ≠ .absent → e.select s.dlab ≠ some .wrThr))

/-- R83: every transaction the sequencer issues matches a row of R77 in the DLAB state it is issued in, the trace's
and the device's, and raises no fault. The invariant has a premise of the model (log 20). -/
def Obligations.SequencerIssuesDecodedSelects : Prop :=
  ∀ (d : Bool) (s t : State), BlockInv d s → step s = .next t → s.nextAgent = .sequencer →
    t.fault = none ∧
    ∀ es, t.trace = s.trace ++ es → ∀ e ∈ es, (e.select (scanTrace d s.trace).dlab).isSome = true ∧
      (s.cfg.device ≠ .absent → (e.select s.dlab).isSome = true)

/-- R195: every data write the block issues, a write of offset 0 with DLAB clear by the trace (R38), comes straight
after an LSR read that was ready. The invariant has a premise of the model (log 20). -/
def Obligations.DataWriteFollowsReadyRead : Prop :=
  ∀ (d : Bool) (s t : State) (v : Byte), BlockInv d s → step s = .next t → (scanTrace d s.trace).dlab = false →
    t.trace = s.trace ++ [.w 0x3F8#16 v] →
    ∃ (before : List Event) (r : Byte), s.trace = before ++ [.r 0x3FD#16 r] ∧ r.getLsbD 5 = true

/-- R35: in a run of the block THRE falls only by the data write of Send, rises only by the device's drain step, and
the wire grows by exactly the bytes written. The invariant has a premise of the model (log 20); the oracle model
leaves THRE and the wire alone (log 14), as an absent device does (R173). -/
def Obligations.ThreChanges : Prop :=
  ∀ (d : Bool) (s t : State), BlockInv d s → step s = .next t →
    (s.dev.thre = true → t.dev.thre = false → s.nextAgent = .sequencer ∧ s.phase = .send) ∧
    (s.dev.thre = false → t.dev.thre = true → s.nextAgent = .device) ∧
    (t.dev.wire = s.dev.wire ∨ (s.phase = .send ∧ t.dev.wire = s.dev.wire ++ [s.cur])) ∧
    (s.cfg.device ≠ .reference → t.dev.thre = s.dev.thre ∧ t.dev.wire = s.dev.wire)

/-- R44: a sequencer step of the reference device model is a step of the oracle model that is given the value the
reference device answers: the sequencer's registers, the trace and the fault register come out the same. The
invariant has a premise of the model (log 20). -/
def Obligations.ReferenceStepIsAnOracleStep : Prop :=
  ∀ (d : Bool) (s t : State), BlockInv d s → s.cfg.device = .reference → s.nextAgent = .sequencer →
    step s = .next t →
    ∃ o : State,
      step { s with
        cfg := { s.cfg with device := .oracle }
        sched := .sequencer :: s.sched.tail
        lsrIn := s.takeTurn.readValue Config.offLsr :: s.lsrIn.tail } = .next o ∧
      o.phase = t.phase ∧ o.lcr = t.lcr ∧ o.rest = t.rest ∧ o.fault = t.fault ∧ o.trace = t.trace ∧
      (inTransmit t.phase = true → o.cur = t.cur)

/-- R63, R173: what the block does is the same function of the LSR answers whether a device is there, as in the
oracle model, or absent, and whatever the device's registers hold: two states that differ only there step alike. The
writes of a step to an absent device are dropped. -/
def Obligations.DeviceStateIsInvisible : Prop :=
  ∀ (s t : State) (m : DeviceModel) (d : Uart), s.cfg.device ≠ .reference → m ≠ .reference → step s = .next t →
    (∃ u : State, step { s with cfg := { s.cfg with device := m }, dev := d } = .next u ∧
      { u with cfg := t.cfg, dev := t.dev } = t) ∧
    (s.cfg.device = .absent → t.dev = s.dev)

/-- R28, R34, R141: two answers with the same THRE bit lead Poll to the same state but for the trace. -/
def Obligations.PollSeesOnlyBitFive : Prop :=
  ∀ (s t u : State) (a b : Byte) (as : List Byte), s.phase = .poll → s.nextAgent = .sequencer →
    s.cfg.device ≠ .reference → a.getLsbD 5 = b.getLsbD 5 →
    step { s with lsrIn := a :: as } = .next t → step { s with lsrIn := b :: as } = .next u →
    { u with trace := t.trace } = t

/-- R202, R43: in the reference device model, once the drain step has been taken, the next poll reads bit 5 = 1 and
the block goes on to Send; and in every infinite run of that model THRE_EVENTUALLY follows from weak fairness of the
drain step. The answers and the turns are the model's inputs (logs 4 and 5). -/
def Obligations.DrainMakesPollReady : Prop :=
  (∀ (s : State) (later : List Agent), s.fault = none → s.phase = .poll → s.cfg.device = .reference →
    s.sched = .device :: .sequencer :: later →
    ∃ t : State, runSteps 2 s = .next t ∧ t.phase = .send ∧ t.dev.thre = true ∧ t.fault = none) ∧
  (∀ r : Nat → State, IsRun r → (r 0).cfg.device = .reference → WeakFairDrain r → ThreEventually r)

/-- R80: the assembler refuses a decimal and a `0x` hexadecimal immediate outside 0 to 255, whatever text follows its
last digit. Both letter cases of a hexadecimal digit count (log 26). -/
def Obligations.AssemblerRefusesLargeImmediates : Prop :=
  (∀ ds after : List Char, (∀ c ∈ ds, c.isDigit = true) → (∀ c, after.head? = some c → c.isDigit = false) →
    255 < digitsValue 10 ds → parseImm (ds ++ after) = .error (.outOfRange (digitsValue 10 ds))) ∧
  (∀ ds after : List Char, (∀ c ∈ ds, (hexValue c).isSome = true) →
    (∀ c, after.head? = some c → hexValue c = none) →
    255 < digitsValue 16 ds → parseImm ('0' :: 'x' :: (ds ++ after)) = .error (.outOfRange (digitsValue 16 ds)))
end

