-- ==== Sys2Proof/Laws/State.lean ====
section
/-!
SUPPORT. One lemma per field per update of the state, each true by rfl, so that no later proof unfolds a record update.
-/

namespace Sys2Proof.Machine

/-! ## What raising a fault (R172) changes -/

@[simp] theorem State.raise_cfg (r : FaultReason) (s : State) : (s.raise r).cfg = s.cfg := rfl
@[simp] theorem State.raise_phase (r : FaultReason) (s : State) : (s.raise r).phase = s.phase := rfl
@[simp] theorem State.raise_lcr (r : FaultReason) (s : State) : (s.raise r).lcr = s.lcr := rfl
@[simp] theorem State.raise_cur (r : FaultReason) (s : State) : (s.raise r).cur = s.cur := rfl
@[simp] theorem State.raise_rest (r : FaultReason) (s : State) : (s.raise r).rest = s.rest := rfl
@[simp] theorem State.raise_fault (r : FaultReason) (s : State) : (s.raise r).fault = some r := rfl
@[simp] theorem State.raise_trace (r : FaultReason) (s : State) : (s.raise r).trace = s.trace := rfl
@[simp] theorem State.raise_dev (r : FaultReason) (s : State) : (s.raise r).dev = s.dev := rfl
@[simp] theorem State.raise_hostStream (r : FaultReason) (s : State) : (s.raise r).hostStream = s.hostStream := rfl
@[simp] theorem State.raise_hostPos (r : FaultReason) (s : State) : (s.raise r).hostPos = s.hostPos := rfl
@[simp] theorem State.raise_lsrIn (r : FaultReason) (s : State) : (s.raise r).lsrIn = s.lsrIn := rfl
@[simp] theorem State.raise_sched (r : FaultReason) (s : State) : (s.raise r).sched = s.sched := rfl
@[simp] theorem State.raise_draws (r : FaultReason) (s : State) : (s.raise r).draws = s.draws := rfl

/-! ## What recording an event (R27) changes -/

@[simp] theorem State.record_cfg (e : Event) (s : State) : (s.record e).cfg = s.cfg := rfl
@[simp] theorem State.record_phase (e : Event) (s : State) : (s.record e).phase = s.phase := rfl
@[simp] theorem State.record_lcr (e : Event) (s : State) : (s.record e).lcr = s.lcr := rfl
@[simp] theorem State.record_cur (e : Event) (s : State) : (s.record e).cur = s.cur := rfl
@[simp] theorem State.record_rest (e : Event) (s : State) : (s.record e).rest = s.rest := rfl
@[simp] theorem State.record_fault (e : Event) (s : State) : (s.record e).fault = s.fault := rfl
@[simp] theorem State.record_trace (e : Event) (s : State) : (s.record e).trace = s.trace ++ [e] := rfl
@[simp] theorem State.record_dev (e : Event) (s : State) : (s.record e).dev = s.dev := rfl
@[simp] theorem State.record_hostStream (e : Event) (s : State) : (s.record e).hostStream = s.hostStream := rfl
@[simp] theorem State.record_hostPos (e : Event) (s : State) : (s.record e).hostPos = s.hostPos := rfl
@[simp] theorem State.record_lsrIn (e : Event) (s : State) : (s.record e).lsrIn = s.lsrIn := rfl
@[simp] theorem State.record_sched (e : Event) (s : State) : (s.record e).sched = s.sched := rfl
@[simp] theorem State.record_draws (e : Event) (s : State) : (s.record e).draws = s.draws := rfl

/-! ## What setting the phase (R22) changes -/

@[simp] theorem State.goto_cfg (p : Phase) (s : State) : (s.goto p).cfg = s.cfg := rfl
@[simp] theorem State.goto_phase (p : Phase) (s : State) : (s.goto p).phase = p := rfl
@[simp] theorem State.goto_lcr (p : Phase) (s : State) : (s.goto p).lcr = s.lcr := rfl
@[simp] theorem State.goto_cur (p : Phase) (s : State) : (s.goto p).cur = s.cur := rfl
@[simp] theorem State.goto_rest (p : Phase) (s : State) : (s.goto p).rest = s.rest := rfl
@[simp] theorem State.goto_fault (p : Phase) (s : State) : (s.goto p).fault = s.fault := rfl
@[simp] theorem State.goto_trace (p : Phase) (s : State) : (s.goto p).trace = s.trace := rfl
@[simp] theorem State.goto_dev (p : Phase) (s : State) : (s.goto p).dev = s.dev := rfl
@[simp] theorem State.goto_hostStream (p : Phase) (s : State) : (s.goto p).hostStream = s.hostStream := rfl
@[simp] theorem State.goto_hostPos (p : Phase) (s : State) : (s.goto p).hostPos = s.hostPos := rfl
@[simp] theorem State.goto_lsrIn (p : Phase) (s : State) : (s.goto p).lsrIn = s.lsrIn := rfl
@[simp] theorem State.goto_sched (p : Phase) (s : State) : (s.goto p).sched = s.sched := rfl
@[simp] theorem State.goto_draws (p : Phase) (s : State) : (s.goto p).draws = s.draws := rfl

/-! ## What writing the LCR cache (R21) changes -/

@[simp] theorem State.setCache_cfg (v : Byte) (s : State) : (s.setCache v).cfg = s.cfg := rfl
@[simp] theorem State.setCache_phase (v : Byte) (s : State) : (s.setCache v).phase = s.phase := rfl
@[simp] theorem State.setCache_lcr (v : Byte) (s : State) : (s.setCache v).lcr = some v := rfl
@[simp] theorem State.setCache_cur (v : Byte) (s : State) : (s.setCache v).cur = s.cur := rfl
@[simp] theorem State.setCache_rest (v : Byte) (s : State) : (s.setCache v).rest = s.rest := rfl
@[simp] theorem State.setCache_fault (v : Byte) (s : State) : (s.setCache v).fault = s.fault := rfl
@[simp] theorem State.setCache_trace (v : Byte) (s : State) : (s.setCache v).trace = s.trace := rfl
@[simp] theorem State.setCache_dev (v : Byte) (s : State) : (s.setCache v).dev = s.dev := rfl
@[simp] theorem State.setCache_hostStream (v : Byte) (s : State) : (s.setCache v).hostStream = s.hostStream := rfl
@[simp] theorem State.setCache_hostPos (v : Byte) (s : State) : (s.setCache v).hostPos = s.hostPos := rfl
@[simp] theorem State.setCache_lsrIn (v : Byte) (s : State) : (s.setCache v).lsrIn = s.lsrIn := rfl
@[simp] theorem State.setCache_sched (v : Byte) (s : State) : (s.setCache v).sched = s.sched := rfl
@[simp] theorem State.setCache_draws (v : Byte) (s : State) : (s.setCache v).draws = s.draws := rfl

/-! ## What taking bytes of the host's stream changes -/

@[simp] theorem State.deliver_cfg (n : Nat) (s : State) : (s.deliver n).cfg = s.cfg := rfl
@[simp] theorem State.deliver_phase (n : Nat) (s : State) : (s.deliver n).phase = s.phase := rfl
@[simp] theorem State.deliver_lcr (n : Nat) (s : State) : (s.deliver n).lcr = s.lcr := rfl
@[simp] theorem State.deliver_cur (n : Nat) (s : State) : (s.deliver n).cur = s.cur := rfl
@[simp] theorem State.deliver_rest (n : Nat) (s : State) : (s.deliver n).rest = s.rest := rfl
@[simp] theorem State.deliver_fault (n : Nat) (s : State) : (s.deliver n).fault = s.fault := rfl
@[simp] theorem State.deliver_trace (n : Nat) (s : State) : (s.deliver n).trace = s.trace := rfl
@[simp] theorem State.deliver_dev (n : Nat) (s : State) : (s.deliver n).dev = s.dev := rfl
@[simp] theorem State.deliver_hostStream (n : Nat) (s : State) : (s.deliver n).hostStream = s.hostStream := rfl
@[simp] theorem State.deliver_hostPos (n : Nat) (s : State) : (s.deliver n).hostPos = s.hostPos + n := rfl
@[simp] theorem State.deliver_lsrIn (n : Nat) (s : State) : (s.deliver n).lsrIn = s.lsrIn := rfl
@[simp] theorem State.deliver_sched (n : Nat) (s : State) : (s.deliver n).sched = s.sched := rfl
@[simp] theorem State.deliver_draws (n : Nat) (s : State) : (s.deliver n).draws = s.draws := rfl

/-! ## What using up an answer of the oracle changes -/

@[simp] theorem State.takeAnswer_cfg (s : State) : s.takeAnswer.cfg = s.cfg := rfl
@[simp] theorem State.takeAnswer_phase (s : State) : s.takeAnswer.phase = s.phase := rfl
@[simp] theorem State.takeAnswer_lcr (s : State) : s.takeAnswer.lcr = s.lcr := rfl
@[simp] theorem State.takeAnswer_cur (s : State) : s.takeAnswer.cur = s.cur := rfl
@[simp] theorem State.takeAnswer_rest (s : State) : s.takeAnswer.rest = s.rest := rfl
@[simp] theorem State.takeAnswer_fault (s : State) : s.takeAnswer.fault = s.fault := rfl
@[simp] theorem State.takeAnswer_trace (s : State) : s.takeAnswer.trace = s.trace := rfl
@[simp] theorem State.takeAnswer_dev (s : State) : s.takeAnswer.dev = s.dev := rfl
@[simp] theorem State.takeAnswer_hostStream (s : State) : s.takeAnswer.hostStream = s.hostStream := rfl
@[simp] theorem State.takeAnswer_hostPos (s : State) : s.takeAnswer.hostPos = s.hostPos := rfl
@[simp] theorem State.takeAnswer_lsrIn (s : State) : s.takeAnswer.lsrIn = s.lsrIn.tail := rfl
@[simp] theorem State.takeAnswer_sched (s : State) : s.takeAnswer.sched = s.sched := rfl
@[simp] theorem State.takeAnswer_draws (s : State) :
    s.takeAnswer.draws = if s.lsrIn = [] then s.draws + 1 else s.draws := rfl

/-! ## What giving a turn changes -/

@[simp] theorem State.takeTurn_cfg (s : State) : s.takeTurn.cfg = s.cfg := rfl
@[simp] theorem State.takeTurn_phase (s : State) : s.takeTurn.phase = s.phase := rfl
@[simp] theorem State.takeTurn_lcr (s : State) : s.takeTurn.lcr = s.lcr := rfl
@[simp] theorem State.takeTurn_cur (s : State) : s.takeTurn.cur = s.cur := rfl
@[simp] theorem State.takeTurn_rest (s : State) : s.takeTurn.rest = s.rest := rfl
@[simp] theorem State.takeTurn_fault (s : State) : s.takeTurn.fault = s.fault := rfl
@[simp] theorem State.takeTurn_trace (s : State) : s.takeTurn.trace = s.trace := rfl
@[simp] theorem State.takeTurn_dev (s : State) : s.takeTurn.dev = s.dev := rfl
@[simp] theorem State.takeTurn_hostStream (s : State) : s.takeTurn.hostStream = s.hostStream := rfl
@[simp] theorem State.takeTurn_hostPos (s : State) : s.takeTurn.hostPos = s.hostPos := rfl
@[simp] theorem State.takeTurn_lsrIn (s : State) : s.takeTurn.lsrIn = s.lsrIn := rfl
@[simp] theorem State.takeTurn_sched (s : State) : s.takeTurn.sched = s.sched.tail := rfl
@[simp] theorem State.takeTurn_draws (s : State) :
    s.takeTurn.draws = if s.sched = [] then s.draws + 1 else s.draws := rfl

end Sys2Proof.Machine
end

