-- ==== Sys2Proof/Laws/Decode.lean ====
section
/-!
SUPPORT. What the decoders answer: the register each select key of the block reaches (R77), and the level of what the
host's decoder reads.
-/

namespace Sys2Proof

open Sys2Proof.Machine

/-- An LCR write reaches LCR in either DLAB state (R101). -/
@[simp] theorem decodeSelect_write_lcr (d : Bool) : decodeSelect (selectKey d true Config.offLcr) = some .wrLcr := by
  cases d <;> decide

/-- A write of offset 0 reaches DLL with DLAB set and THR with DLAB clear (R102, R104). -/
@[simp] theorem decodeSelect_write_data (d : Bool) :
    decodeSelect (selectKey d true Config.offData) = some (if d then .wrDll else .wrThr) := by
  cases d <;> decide

/-- The same offset under its divisor name (R102). -/
@[simp] theorem decodeSelect_write_dll (d : Bool) :
    decodeSelect (selectKey d true Config.offDll) = some (if d then .wrDll else .wrThr) := by
  cases d <;> decide

/-- A write of offset 1 reaches DLM with DLAB set and is unmodelled with DLAB clear (R103, R106). -/
@[simp] theorem decodeSelect_write_dlm (d : Bool) :
    decodeSelect (selectKey d true Config.offDlm) = if d then some .wrDlm else none := by
  cases d <;> decide

/-- A read of offset 5 reaches LSR in either DLAB state (R105). -/
@[simp] theorem decodeSelect_read_lsr (d : Bool) : decodeSelect (selectKey d false Config.offLsr) = some .rdLsr := by
  cases d <;> decide

/-- A WRITE is well formed exactly if its operand fits the length field (R71, R73). -/
@[simp] theorem wellFormed_write (bytes : List Byte) :
    (Instr.write bytes).wellFormed = true ↔ bytes.length ≤ 65535 := decide_eq_true_iff

/-- The host's decoder reads host commands only (R70). -/
theorem decodeCommand_level {bs rest : List Byte} {i : Instr} (h : decodeCommand bs = .ok i rest) :
    i.level = .command := by
  cases bs with
  | nil => simp [decodeCommand] at h
  | cons op bs =>
    simp only [decodeCommand] at h
    split_ifs at h
    · simp only [Verdict.ok.injEq] at h; rw [← h.1]; rfl
    · cases bs <;> simp only [Verdict.ok.injEq, reduceCtorEq] at h
      rw [← h.1]; rfl
    · rcases bs with _ | ⟨lo, _ | ⟨hi, r⟩⟩ <;> simp only [reduceCtorEq] at h
      split_ifs at h
      simp only [Verdict.ok.injEq] at h
      rw [← h.1]; rfl
    · simp only [Verdict.ok.injEq] at h; rw [← h.1]; rfl

/-- The host's decoder never answers with a select key. -/
theorem decodeCommand_ne_unmodelled (bs : List Byte) (k : SelectKey) : decodeCommand bs ≠ .unmodelled k := by
  cases bs with
  | nil => simp [decodeCommand]
  | cons op bs =>
    simp only [decodeCommand]
    split_ifs
    · simp
    · cases bs <;> simp
    · rcases bs with _ | ⟨lo, _ | ⟨hi, r⟩⟩ <;> simp only [ne_eq, reduceCtorEq, not_false_eq_true]
      split_ifs <;> simp
    · simp
    · simp

/-- The host's decoder finds the end only of an empty stream. -/
theorem decodeCommand_done {bs : List Byte} (h : decodeCommand bs = .done) : bs = [] := by
  cases bs with
  | nil => rfl
  | cons op bs =>
    simp only [decodeCommand] at h
    split_ifs at h
    · cases bs <;> simp at h
    · rcases bs with _ | ⟨lo, _ | ⟨hi, r⟩⟩ <;> simp only [reduceCtorEq] at h
      split_ifs at h

end Sys2Proof
end

