-- ==== Sys2Proof/Laws/Ops.lean ====
section
/-!
SUPPORT. What each shared operation over the state can do, said once: the device's side of a transaction touches only
the device and the fault register, a port primitive appends its event, a command is admitted or faults.
-/

namespace Sys2Proof.Machine

/-! ## The flags -/

/-- The ready predicate is bit 5. -/
theorem ready_eq (v : Byte) : ready v = v.getLsbD 5 := by
  revert v; decide

/-- Setting THRE makes an LSR value ready exactly if THRE is set. -/
@[simp] theorem ready_withThre (t : Bool) (v : Byte) : ready (withThre t v) = t := by
  revert v; cases t <;> decide

/-! ## The device side -/

/-- Recording an event leaves DLAB. -/
@[simp] theorem State.record_dlab (e : Event) (s : State) : (s.record e).dlab = s.dlab := rfl

/-- Giving a turn leaves DLAB. -/
@[simp] theorem State.takeTurn_dlab (s : State) : s.takeTurn.dlab = s.dlab := rfl

/-- Without a device nothing is stored (R173). -/
@[simp] theorem State.stored_absent (d : Uart) {s : State} (h : s.cfg.device = .absent) : s.stored d = s.dev := by
  simp [State.stored, h]

/-- A device stores what is written to it. -/
@[simp] theorem State.stored_present (d : Uart) {s : State} (h : s.cfg.device ≠ .absent) : s.stored d = d := by
  simp [State.stored, h]

/-- Recording an event does not change what is stored. -/
@[simp] theorem State.record_stored (e : Event) (d : Uart) (s : State) : (s.record e).stored d = s.stored d := rfl

/-- Giving a turn does not change what is stored. -/
@[simp] theorem State.takeTurn_stored (d : Uart) (s : State) : s.takeTurn.stored d = s.stored d := rfl

/-- The device's side of a write changes nothing but the device and the fault register. -/
theorem deviceWrite_frame (off : Offset) (v : Byte) (s : State) :
    ∃ d f, s.deviceWrite off v = { s with dev := d, fault := f } := by
  unfold State.deviceWrite
  split
  · exact ⟨_, s.fault, rfl⟩
  · exact ⟨_, s.fault, rfl⟩
  · exact ⟨_, s.fault, rfl⟩
  · unfold State.acceptByte
    split
    · exact ⟨s.dev, s.fault, rfl⟩
    · exact ⟨_, s.fault, rfl⟩
    · split
      · exact ⟨_, s.fault, rfl⟩
      · exact ⟨s.dev, _, rfl⟩
  · exact ⟨s.dev, s.fault, rfl⟩
  · unfold State.unmodelledAccess
    split
    · exact ⟨s.dev, s.fault, rfl⟩
    · exact ⟨s.dev, s.fault, rfl⟩
    · exact ⟨s.dev, _, rfl⟩

/-- A port write records its event and changes nothing else but the device and the fault register (R100). -/
theorem portWrite_frame (off : Offset) (v : Byte) (s : State) :
    ∃ d f, s.portWrite off v =
      { s with trace := s.trace ++ [.w (portAddr off) v], dev := d, fault := f } := by
  obtain ⟨d, f, h⟩ := deviceWrite_frame off v (s.record (.w (portAddr off) v))
  exact ⟨d, f, h⟩

/-- In the oracle model, and without a device, a port write raises no fault (R100, R173). -/
theorem portWrite_fault_oracle (off : Offset) (v : Byte) (s : State) (h : s.cfg.device ≠ .reference) :
    (s.portWrite off v).fault = s.fault := by
  simp only [State.portWrite, State.deviceWrite]
  cases hd : s.cfg.device with
  | reference => exact absurd hd h
  | oracle => split <;> simp [State.acceptByte, State.unmodelledAccess, hd]
  | absent => split <;> simp [State.acceptByte, State.unmodelledAccess, hd]

/-- Without a device a port write is an event and nothing else (R63, R173). -/
theorem portWrite_absent (off : Offset) (v : Byte) (s : State) (h : s.cfg.device = .absent) :
    s.portWrite off v = s.record (.w (portAddr off) v) := by
  have h' : (s.record (.w (portAddr off) v)).cfg.device = .absent := h
  simp only [State.portWrite, State.deviceWrite]
  split <;> simp [State.acceptByte, State.unmodelledAccess, State.stored_absent _ h'] <;> simp [h, State.record]

/-- An LCR write sets the device's LCR, whatever DLAB was (R101). -/
theorem portWrite_lcr (v : Byte) (s : State) :
    s.portWrite Config.offLcr v =
      { s with trace := s.trace ++ [.w (portAddr Config.offLcr) v], dev := s.stored { s.dev with lcr := v } } := by
  simp [State.portWrite, State.deviceWrite]

/-- A write of offset 0 with DLAB set reaches DLL (R102). -/
theorem portWrite_dll (v : Byte) (s : State) (h : s.dlab = true) :
    s.portWrite Config.offDll v =
      { s with trace := s.trace ++ [.w (portAddr Config.offDll) v], dev := s.stored { s.dev with dll := v } } := by
  simp [State.portWrite, State.deviceWrite, h]

/-- A write of offset 1 with DLAB set reaches DLM (R103). -/
theorem portWrite_dlm (v : Byte) (s : State) (h : s.dlab = true) :
    s.portWrite Config.offDlm v =
      { s with trace := s.trace ++ [.w (portAddr Config.offDlm) v], dev := s.stored { s.dev with dlm := v } } := by
  simp [State.portWrite, State.deviceWrite, h]

/-- A write of offset 0 with DLAB clear hands the byte to the data register (R104). -/
theorem portWrite_thr (v : Byte) (s : State) (h : s.dlab = false) :
    s.portWrite Config.offData v = (s.record (.w (portAddr Config.offData) v)).acceptByte v := by
  simp [State.portWrite, State.deviceWrite, h]

/-- An LSR read uses up an answer and records the value; nothing else changes (R105). -/
theorem portRead_lsr (s : State) :
    s.portRead Config.offLsr =
      { s.takeAnswer with trace := s.trace ++ [.r (portAddr Config.offLsr) (s.readValue Config.offLsr)] } := by
  simp [State.portRead, State.deviceRead, State.record]

/-- In the reference device model an LSR read is ready exactly if THRE is set (R105). -/
theorem ready_readValue_reference (s : State) (h : s.cfg.device = .reference) :
    ready (s.readValue Config.offLsr) = s.dev.thre := by
  simp [State.readValue, h]

/-- In the oracle model, and without a device, a read returns the oracle's answer (R57, R63). -/
theorem readValue_oracle (off : Offset) (s : State) (h : s.cfg.device ≠ .reference) :
    s.readValue off = s.nextAnswer := by
  cases hd : s.cfg.device <;> simp_all [State.readValue]

/-- What the drain step can change: THRE, in the reference device model, from 0 to 1 (R43). -/
theorem drain_cases (s : State) :
    s.drain = s ∨
      (s.cfg.device = .reference ∧ s.dev.thre = false ∧ s.drain = { s with dev := { s.dev with thre := true } }) := by
  unfold State.drain State.drainEnabled
  by_cases h : s.cfg.device = .reference <;> cases ht : s.dev.thre <;> simp [h]

/-! ## Host commands -/

/-- Beginning to send bytes changes `cur`, `rest` and `phase` at most; it changes nothing for no byte. -/
theorem beginBytes_cases (bytes : List Byte) (s : State) :
    (bytes = [] ∧ s.beginBytes bytes = s) ∨
      ∃ b bs, bytes = b :: bs ∧ s.beginBytes bytes = { s with cur := b, rest := bs, phase := .poll } := by
  cases bytes with
  | nil => exact .inl ⟨rfl, rfl⟩
  | cons b bs => exact .inr ⟨b, bs, rfl, rfl⟩

/-- Whatever an admitted or refused delivery answers as a next state: the admission step from Idle, or `BusyViolation`
(R180, R181). -/
theorem admission_next {f : State → State} {s t : State} (h : admission f s = .next t) :
    s.fault = none ∧
      ((s.phase = .idle ∧ t = f s) ∨ (s.phase ≠ .idle ∧ t = s.raise (.busyViolation s.phase))) := by
  unfold admission at h
  split at h
  · cases h
  · rename_i hf
    split_ifs at h with hp
    · exact ⟨hf, .inl ⟨hp, by simpa using h.symm⟩⟩
    · exact ⟨hf, .inr ⟨hp, by simpa using h.symm⟩⟩

/-- Whatever a transaction answers as a next state (R100). -/
theorem transact_next {f : State → State} {s t : State} (h : transact f s = .next t) :
    s.fault = none ∧ t = f s := by
  unfold transact at h
  split at h
  · cases h
  · exact ⟨‹_›, by simpa using h.symm⟩

/-- A delivery in Idle runs its admission step. -/
theorem admission_idle {f : State → State} {s : State} (hf : s.fault = none) (hp : s.phase = .idle) :
    admission f s = .next (f s) := by
  simp [admission, hf, hp]

/-- A transaction runs unless the block is faulted. -/
theorem transact_ok {f : State → State} {s : State} (hf : s.fault = none) : transact f s = .next (f s) := by
  simp [transact, hf]

/-- No step and no instruction goes on in a faulted block (R172). -/
theorem exec_halted (i : Instr) {s : State} {r : FaultReason} (h : s.fault = some r) :
    exec i s = .fault (.halted r) := by
  cases i <;>
    simp [exec, execReset, execWriteByte, execWrite, execNewline, execWrLcr, execWrDll, execWrDlm, execWrThr, execRdLsr,
      admission, transact, h]

end Sys2Proof.Machine
end

