-- ==== Sys2Proof/Laws/Exec.lean ====
section
/-!
SUPPORT. What a meaning, a micro-step and a step can do: one inversion lemma each, from which the invariants follow.
-/

namespace Sys2Proof.Machine

/-- Everything a host command can do when it answers a next state (R121, R142, R145, R146, R181): it raises
`BusyViolation`, starts the RESET sequence, starts to send bytes, or does nothing. -/
theorem exec_command_cases {i : Instr} {s t : State} (hl : i.level = .command) (h : exec i s = .next t) :
    s.fault = none ∧
      ((s.phase ≠ .idle ∧ t = s.raise (.busyViolation s.phase)) ∨
        (s.phase = .idle ∧ i = .reset ∧ t = s.goto .rst0) ∨
        (s.phase = .idle ∧ i ≠ .reset ∧ t = s) ∨
        (s.phase = .idle ∧ i ≠ .reset ∧ ∃ b bs, t = { s with cur := b, rest := bs, phase := .poll })) := by
  have send : ∀ {bytes : List Byte}, i ≠ .reset → admission (State.beginBytes bytes) s = .next t →
      s.fault = none ∧
        ((s.phase ≠ .idle ∧ t = s.raise (.busyViolation s.phase)) ∨
          (s.phase = .idle ∧ i = .reset ∧ t = s.goto .rst0) ∨
          (s.phase = .idle ∧ i ≠ .reset ∧ t = s) ∨
          (s.phase = .idle ∧ i ≠ .reset ∧ ∃ b bs, t = { s with cur := b, rest := bs, phase := .poll })) := by
    intro bytes hi ha
    obtain ⟨hf, ⟨hp, rfl⟩ | ⟨hp, rfl⟩⟩ := admission_next ha
    · refine ⟨hf, .inr (.inr ?_)⟩
      rcases beginBytes_cases bytes s with ⟨_, hb⟩ | ⟨b, bs, _, hb⟩
      · exact .inl ⟨hp, hi, hb⟩
      · exact .inr ⟨hp, hi, b, bs, hb⟩
    · exact ⟨hf, .inl ⟨hp, rfl⟩⟩
  cases i with
  | reset =>
    obtain ⟨hf, ⟨hp, rfl⟩ | ⟨hp, rfl⟩⟩ := admission_next (f := State.goto .rst0) h
    · exact ⟨hf, .inr (.inl ⟨hp, rfl, rfl⟩)⟩
    · exact ⟨hf, .inl ⟨hp, rfl⟩⟩
  | writeByte b => exact send (by simp) h
  | write bytes => exact send (by simp) h
  | newline => exact send (by simp) (bytes := s.cfg.newlineSeq) (by
      have h' : admission (fun t => t.beginBytes t.cfg.newlineSeq) s = .next t := h
      simpa [admission] using h')
  | _ => simp [Instr.level] at hl

/-- A micro-step is its transaction and then its update of the sequencer's registers, which a fault suppresses
(R100, R172). -/
theorem issue_next {i : Instr} {k : State → State} {s t : State} (h : issue i k s = .next t) :
    ∃ u, exec i s = .next u ∧ t = if u.fault = none then k u else u := by
  unfold issue at h
  split at h
  · exact ⟨_, ‹_›, by simpa using h.symm⟩
  · cases h
  · cases h

/-- A micro-step whose transaction raised no fault. -/
theorem issue_ok {i : Instr} {k : State → State} {s u : State} (h : exec i s = .next u) (hf : u.fault = none) :
    issue i k s = .next (k u) := by
  simp [issue, h, hf]

/-- Everything the host's step can do when it answers a next state (R74, R180, R181): nothing left to deliver,
`BusyViolation`, `IllegalCommand`, or the meaning of one decoded command. -/
theorem hostStep_cases {s t : State} (h : hostStep s = .next t) :
    (s.pending = [] ∧ t = s) ∨
      (s.pending ≠ [] ∧ s.phase ≠ .idle ∧ t = s.raise (.busyViolation s.phase)) ∨
      (s.phase = .idle ∧ ∃ op, t = (s.deliver 1).raise (.illegalCommand op)) ∨
      (s.phase = .idle ∧ ∃ i rest, decodeCommand s.pending = .ok i rest ∧ i.level = .command ∧
        exec i (s.deliver (s.pending.length - rest.length)) = .next t) := by
  unfold hostStep at h
  split_ifs at h with h1 h2
  · exact .inl ⟨h1, by simpa using h.symm⟩
  · right; right
    split at h
    · rename_i i rest hd
      exact .inr ⟨h2, i, rest, hd, decodeCommand_level hd, h⟩
    · rename_i op _ hd
      exact .inl ⟨h2, op, by simpa using h.symm⟩
    · cases h
    · rename_i hd
      exact absurd (decodeCommand_done hd) h1
    · rename_i k hd
      exact absurd hd (decodeCommand_ne_unmodelled _ k)
  · exact .inr (.inl ⟨h1, h2, by simpa using h.symm⟩)

/-- A step that answers a next state is a step of the agent whose turn it is, in a block that is not faulted (R172). -/
theorem step_next {s t : State} (h : step s = .next t) :
    s.fault = none ∧ agentStep s.nextAgent s.takeTurn = .next t := by
  unfold step stepNext at h
  split at h
  · cases h
  · exact ⟨‹_›, h⟩

/-- Rst3 reads the cache it has just written, so the unwritten-cache fault cannot happen (R21, R125). -/
theorem microRst3_eq (s : State) :
    microRst3 s = issue (.wrLcr s.cfg.lcrFormat) (State.goto .idle) (s.setCache s.cfg.lcrFormat) := rfl

end Sys2Proof.Machine
end

