-- ==== Sys2Proof/Laws/PerInstr.lean ====
section
/-!
SUPPORT. The family Encoded, one lemma per instruction: the encoding of an instruction has the length of its format
(R71), and its first byte agrees with the instruction's row of the opcode table on the bits of the row's mask (R72, R77).
-/

namespace Sys2Proof.Laws.Encoded

/-- An instruction's encoding agrees with its row of spec/opcode_table.json and has its format's length. -/
def Statement (i : Instr) : Prop :=
  (encode i).length = encodedLength i ∧
    ∃ first others, encode i = first :: others ∧ first &&& (tableRow i).2 = (tableRow i).1

theorem reset : Statement .reset := ⟨rfl, _, _, rfl, by decide⟩

theorem writeByte (b : Byte) : Statement (.writeByte b) := ⟨rfl, _, _, rfl, by simp [tableRow]⟩

theorem write (bytes : List Byte) : Statement (.write bytes) :=
  ⟨by simp [encode, encodedLength]; omega, _, _, rfl, by simp [tableRow]⟩

theorem newline : Statement .newline := ⟨rfl, _, _, rfl, by decide⟩

theorem wrLcr (v : Byte) : Statement (.wrLcr v) := ⟨rfl, _, _, rfl, by simp [tableRow]⟩

theorem wrDll (v : Byte) : Statement (.wrDll v) := ⟨rfl, _, _, rfl, by simp [tableRow]⟩

theorem wrDlm (v : Byte) : Statement (.wrDlm v) := ⟨rfl, _, _, rfl, by simp [tableRow]⟩

theorem wrThr (v : Byte) : Statement (.wrThr v) := ⟨rfl, _, _, rfl, by simp [tableRow]⟩

theorem rdLsr : Statement .rdLsr := ⟨rfl, _, _, rfl, by decide⟩

end Sys2Proof.Laws.Encoded
end

