-- ==== Sys2Proof/Laws/Runs.lean ====
section
/-!
SUPPORT. Runs of several steps: one step at a time, in two parts, and whose turn it is.
-/

namespace Sys2Proof.Safety

open Sys2Proof.Machine

/-- No step: the state as it is. -/
@[simp] theorem runSteps_zero (s : State) : runSteps 0 s = .next s := rfl

/-- A run of `k + 1` steps is one step and a run of `k` steps from there. -/
theorem runSteps_succ (k : Nat) (s : State) :
    runSteps (k + 1) s =
      match step s with
      | .next t => runSteps k t
      | .fault r => .fault r
      | .refused r => .refused r := rfl

/-- A run that begins with a step to `t`. -/
theorem runSteps_of_step (k : Nat) {s t : State} (h : step s = .next t) : runSteps (k + 1) s = runSteps k t := by
  rw [runSteps_succ, h]

/-- A run in two parts. -/
theorem runSteps_add (m n : Nat) {s t : State} (h : runSteps m s = .next t) : runSteps (m + n) s = runSteps n t := by
  induction m generalizing s with
  | zero => cases h; simp
  | succ m ih =>
    rw [Nat.add_right_comm, runSteps_succ]
    rw [runSteps_succ] at h
    split at h
    · exact ih h
    · cases h
    · cases h

/-- With `k + 1` turns of the sequencer ahead, it moves next, and `k` turns are left after the step. -/
theorem sequencerTurns_succ {k : Nat} {s : State} (h : SequencerTurns (k + 1) s) :
    s.nextAgent = .sequencer ∧ s.takeTurn = { s with sched := s.sched.tail } ∧
      ∀ t : State, t.sched = s.sched.tail → SequencerTurns k t := by
  obtain ⟨later, h⟩ := h
  simp only [List.replicate_succ, List.cons_append] at h
  exact ⟨by simp [State.nextAgent, h], by simp [State.takeTurn, h], fun t ht => ⟨later, by simp [ht, h]⟩⟩

end Sys2Proof.Safety

namespace Sys2Proof.Machine

/-- What the end of a byte leaves as it is (R144). -/
theorem advance_frame (s : State) :
    s.advance.trace = s.trace ∧ s.advance.fault = s.fault ∧ s.advance.lcr = s.lcr ∧ s.advance.cfg = s.cfg ∧
      s.advance.lsrIn = s.lsrIn ∧ s.advance.hostStream = s.hostStream ∧ s.advance.hostPos = s.hostPos ∧
      s.advance.dev = s.dev ∧ s.advance.sched = s.sched := by
  unfold State.advance
  split <;> simp

/-- After the last byte the command is complete (R152). -/
theorem advance_last {s : State} (h : s.rest = []) : s.advance.phase = .idle ∧ s.advance.rest = [] := by
  simp [State.advance, h]

/-- Before the last byte the next one polls again (R144). -/
theorem advance_more {s : State} {b : Byte} {bs : List Byte} (h : s.rest = b :: bs) :
    s.advance = { s with cur := b, rest := bs, phase := .poll } := by
  simp [State.advance, h]

end Sys2Proof.Machine
end

