-- ==== Sys2Proof/Machine/TraceText.lean ====
section
/-!
DEFINITION. The two spellings of a trace (30_encoding.md R81), as lists of characters.
-/

namespace Sys2Proof.Machine

/-- One hexadecimal digit, upper case (DESIGN CHOICE, log 34). -/
def hexDigit (n : Nat) : Char := if n < 10 then Char.ofNat (48 + n) else Char.ofNat (55 + n)

/-- `0x` and exactly `k` hexadecimal digits of `n`. -/
def hexText (k n : Nat) : List Char :=
  '0' :: 'x' :: ((List.range k).reverse.map fun i => hexDigit (n / 16 ^ i % 16))

/-- A port in hexadecimal: three digits where they are enough, as the spec writes 0x3F8 (DESIGN CHOICE, log 34). -/
def portText (p : Port) : List Char := hexText (if p.toNat < 0x1000 then 3 else 4) p.toNat

/-- The event spelling: `W(0x3FB,0x80)`, `R(0x3FD,0x20)` (R81). R81 writes a blank after the comma and the traces of
95_test_vectors.md none; the model prints none (DESIGN CHOICE, log 34). -/
def Event.text : Event → List Char
  | .w p v => "W(".toList ++ portText p ++ [','] ++ hexText 2 v.toNat ++ [')']
  | .r p v => "R(".toList ++ portText p ++ [','] ++ hexText 2 v.toNat ++ [')']

/-- The DLAB bit the device holds after an event, if it held `dlab` before: an LCR write sets it (R31). -/
def Event.dlabAfter (dlab : Bool) (e : Event) : Bool :=
  match e with
  | .w p v => if p = portAddr Config.offLcr then dlabOf v else dlab
  | .r _ _ => dlab

/-- The mnemonic spelling of one event: `WR_LCR 0x80`, `RD_LSR -> 0x20` (R81); none for an unmodelled access
(DESIGN CHOICE, log 34). -/
def Event.mnemonicText (dlab : Bool) (e : Event) : Option (List Char) :=
  match e.select dlab, e with
  | some .wrThr, .w _ v => some ("WR_THR ".toList ++ hexText 2 v.toNat)
  | some .wrDll, .w _ v => some ("WR_DLL ".toList ++ hexText 2 v.toNat)
  | some .wrDlm, .w _ v => some ("WR_DLM ".toList ++ hexText 2 v.toNat)
  | some .wrLcr, .w _ v => some ("WR_LCR ".toList ++ hexText 2 v.toNat)
  | some .rdLsr, .r _ v => some ("RD_LSR -> ".toList ++ hexText 2 v.toNat)
  | _, _ => none

/-- The mnemonic spelling of a trace that begins with the device's DLAB as given. -/
def traceMnemonics : Bool → List Event → List (Option (List Char))
  | _, [] => []
  | dlab, e :: es => e.mnemonicText dlab :: traceMnemonics (e.dlabAfter dlab) es

end Sys2Proof.Machine
end

