-- ==== Sys2Proof/Tests/Slice0.lean ====
section
/-!
SUPPORT. The model's own tests: expected results from the vectors of 95_test_vectors.md and the rules of spec/, and one
witness for every statement that has hypotheses.
-/

namespace Sys2Proof.Tests

open Sys2Proof.Machine Sys2Proof.Safety

/-! ## States to test on -/

/-- The block after the launch RESET with the default configuration (R40), the device as P1 of 95 leaves it. -/
def idleState : State :=
  { State.reset with
    phase := .idle
    lcr := some 0x03#8
    trace := resetEvents {}
    dev := { Uart.reset with lcr := 0x03#8, dll := 0x01#8 } }

/-- The same, with one agent listed as the next to move. -/
def turnOf (a : Agent) (s : State) : State := { s with sched := [a] }

/-- A transmit phase: `cur` in flight, `rest` behind it, the device's DLAB clear. -/
def txState (p : Phase) (cur : Byte) (rest : List Byte) : State := { idleState with phase := p, cur := cur, rest := rest }

/-- The same with the reference device model, THRE as given. -/
def refState (thre : Bool) (s : State) : State :=
  { s with cfg := { s.cfg with device := .reference }, dev := { s.dev with thre := thre } }

/-- The same with no device at `IOPORT` (R173). -/
def absentState (s : State) : State := { s with cfg := { s.cfg with device := .absent } }

/-- In the divisor-latch window: DLAB set. -/
def windowState (p : Phase) : State := { State.reset with phase := p, dev := { Uart.reset with lcr := 0x80#8 } }

/-- Faulted with `BusyViolation`. -/
def faultedState : State := { idleState with fault := some (.busyViolation .poll) }

/-- The trace a step or an instruction leaves. -/
def traceOf (o : Host.Outcome State Fault Refusal) : Option (List Event) := (nextState? o).map State.trace

/-- The phase it leaves. -/
def phaseOf (o : Host.Outcome State Fault Refusal) : Option Phase := (nextState? o).map State.phase

/-- The fault register it leaves. -/
def faultOf (o : Host.Outcome State Fault Refusal) : Option (Option FaultReason) := (nextState? o).map State.fault

/-- The device it leaves. -/
def devOf (o : Host.Outcome State Fault Refusal) : Option Uart := (nextState? o).map State.dev

/-- The refusal it ends in. -/
def refusalOf : Host.Outcome State Fault Refusal → Option Refusal
  | .refused r => some r
  | .next _ => none
  | .fault _ => none

/-! ## WellFormed: one ill-formed term for each check -/

/-- R71, R73: a WRITE of 65536 bytes has no encoding. -/
theorem test_wf_write_too_long : (Instr.write (List.replicate 65536 0#8)).wellFormed = false := by
  rw [Instr.wellFormed, List.length_replicate]; decide

/-- R71, R73: a WRITE of 65535 bytes has one. -/
theorem test_wf_write_longest : (Instr.write (List.replicate 65535 0#8)).wellFormed = true := by
  rw [Instr.wellFormed, List.length_replicate]; decide

/-- R7: `MAX_WRITE_LEN` has 16 bits and the default 65535; a lower one is a lower limit. -/
theorem test_write_fits :
    Config.maxWriteLen {} = 0xFFFF#16 ∧ Config.writeFits { maxWriteLen := 1#16 } [0x41#8] = true ∧
      Config.writeFits { maxWriteLen := 1#16 } [0x41#8, 0x42#8] = false := by decide

/-- R8(a), V6: LCR_FORMAT 0x83 is refused. -/
theorem test_wf_config_format : Config.wellFormed { lcrFormat := 0x83#8 } = false := by decide

/-- R8(b), V5: a zero divisor is refused. -/
theorem test_wf_config_divisor : Config.wellFormed { divisor := 0#16 } = false := by decide

/-- R7: the default configuration is admitted. -/
theorem test_wf_config_default : Config.wellFormed {} = true := by decide

/-! ## Decode: words written out from 30_encoding.md -/

/-- CMD_A, opcode 0x00 (R72). -/
theorem test_decode_reset : decodeCommand [0x00#8, 0x00#8] = .ok .reset [0x00#8] := by decide

/-- CMD_B, opcode 0x01, imm8 (R72). -/
theorem test_decode_write_byte : decodeCommand [0x01#8, 0x55#8, 0x03#8] = .ok (.writeByte 0x55#8) [0x03#8] := by decide

/-- CMD_C, opcode 0x02, count 2 little-endian, two bytes (R71, P1). -/
theorem test_decode_write :
    decodeCommand [0x02#8, 0x02#8, 0x00#8, 0x41#8, 0x42#8] = .ok (.write [0x41#8, 0x42#8]) [] := by decide

/-- The count's first byte is the low one (R71): 0x0100 asks for 256 bytes. -/
theorem test_decode_write_count_order : lengthField 0x00#8 0x01#8 = 256 := by decide

/-- CMD_A, opcode 0x03 (R72). -/
theorem test_decode_newline : decodeCommand [0x03#8] = .ok .newline [] := by decide

/-- Key 0_1_011: dlab 0, write, offset 3 (V1). -/
theorem test_decode_wr_lcr : decodeBus [0b00001011#8, 0x03#8] = .ok (.wrLcr 0x03#8) [] := by decide

/-- Key 1_1_011 (V1). -/
theorem test_decode_wr_lcr_dlab : decodeBus [0b00011011#8, 0x03#8] = .ok (.wrLcr 0x03#8) [] := by decide

/-- Key 1_1_000 (V1). -/
theorem test_decode_wr_dll : decodeBus [0b00011000#8, 0x0C#8] = .ok (.wrDll 0x0C#8) [] := by decide

/-- Key 1_1_001 (V1). -/
theorem test_decode_wr_dlm : decodeBus [0b00011001#8, 0x01#8] = .ok (.wrDlm 0x01#8) [] := by decide

/-- Key 0_1_000 (V1). -/
theorem test_decode_wr_thr : decodeBus [0b00001000#8, 0x41#8] = .ok (.wrThr 0x41#8) [] := by decide

/-- Key 0_0_101 and 1_0_101 (V1). -/
theorem test_decode_rd_lsr : decodeBus [0b00000101#8] = .ok .rdLsr [] ∧ decodeBus [0b00010101#8] = .ok .rdLsr [] := by
  decide

/-- The unmodelled keys of V1. -/
theorem test_decode_unmodelled_keys :
    [0x09#5, 0x00#5, 0x10#5, 0x03#5, 0x0D#5, 0x0A#5, 0x1F#5].map decodeSelect = List.replicate 7 none := by decide

/-- 95 section 2.4: truncated at byte 1, and at byte 5. -/
theorem test_decode_truncated :
    decodeStream [0x01#8] = .truncated 1 ∧ decodeStream [0x02#8, 0x05#8, 0x00#8, 0x41#8, 0x42#8] = .truncated 5 := by
  decide

/-- The rows of spec/opcode_table.json, by their match values. -/
theorem test_decode_table_words :
    [0x00, 0x01, 0x02, 0x03, 0x0B, 0x18, 0x19, 0x08, 0x05].map (decodeTableWord 8) =
      [some .reset, some (.writeByte 0#8), some (.write []), some .newline, some (.wrLcr 0#8), some (.wrDll 0#8),
        some (.wrDlm 0#8), some (.wrThr 0#8), some .rdLsr] := by decide

/-- A second byte stands in bits 15:8; an illegal opcode that is no key decodes to nothing. -/
theorem test_decode_table_operands :
    decodeTableWord 16 0x4101 = some (.writeByte 0x41#8) ∧ decodeTableWord 16 0x8018 = some (.wrDll 0x80#8) ∧
      decodeTableWord 8 0x04 = none := by decide

/-! ## Placing a word: the very next step runs it -/

/-- Each host command, placed in the machine after reset, runs in the next step. -/
theorem test_fetch_commands :
    phaseOf (step (State.reset.withFetchWord 8 0x00)) = some .rst0 ∧
    (nextState? (step (State.reset.withFetchWord 16 0x4101))).map State.cur = some 0x41#8 ∧
    phaseOf (step (State.reset.withFetchWord 8 0x02)) = some .idle ∧
    (nextState? (step (State.reset.withFetchWord 8 0x03))).map State.rest = some [0x0A#8] := by decide

/-- Each bus transaction, placed in the machine after reset, is the event of the next step. -/
theorem test_fetch_transactions :
    traceOf (step (State.reset.withFetchWord 16 0x030B)) = some [.w 0x3FB#16 0x03#8] ∧
    traceOf (step (State.reset.withFetchWord 16 0x801B)) = some [.w 0x3FB#16 0x80#8] ∧
    traceOf (step (State.reset.withFetchWord 16 0x8018)) = some [.w 0x3F8#16 0x80#8] ∧
    traceOf (step (State.reset.withFetchWord 16 0x0119)) = some [.w 0x3F9#16 0x01#8] ∧
    traceOf (step (State.reset.withFetchWord 16 0x4108)) = some [.w 0x3F8#16 0x41#8] ∧
    ((traceOf (step (State.reset.withFetchWord 8 0x05))).map List.length) = some 1 := by decide

/-! ## One step, from the vectors -/

/-- The launch with the defaults is `State.reset` (R7, R40, R190). -/
theorem test_launch_default : State.launch {} Uart.reset = .next State.reset := rfl

/-- V7: with DLAB_WRITE_VALUE 0x83 event 1 is W(0x3FB,0x83). -/
theorem test_rst0_alternative_value :
    traceOf (step { State.reset with cfg := { dlabWriteValue := 0x83#8 } }) = some [.w 0x3FB#16 0x83#8] := by decide

/-- V5: DIVISOR 0x0180 gives W(0x3F8,0x80), then W(0x3F9,0x01). -/
theorem test_divisor_split :
    traceOf (step { windowState .rst1 with cfg := { divisor := 0x0180#16 } }) = some [.w 0x3F8#16 0x80#8] ∧
    traceOf (step { windowState .rst2 with cfg := { divisor := 0x0180#16 } }) = some [.w 0x3F9#16 0x01#8] := by decide

/-- V9: during a later RESET the cache still holds 0x03 while the device's LCR holds 0x80. -/
theorem test_cache_during_reset :
    (nextState? (step { idleState with phase := .rst0 })).map (fun s => (s.lcr, s.dev.lcr)) =
      some (some 0x03#8, 0x80#8) := by decide

/-- W4, section 2.3: answers 0xDF and 0x40 keep polling, 0x60 ends it. -/
theorem test_poll_answers :
    [0xDF#8, 0x40#8, 0x60#8].map (fun a => phaseOf (step { txState .poll 0x41#8 [] with lsrIn := [a] })) =
      [some .poll, some .poll, some .send] := by decide

/-- V3: further values of the THRE test. -/
theorem test_ready_values : [0x21#8, 0x1F#8, 0x01#8].map ready = [true, false, false] := by decide

/-- Section 2.3: WRITE [0x0A] sends one 0x0A and no carriage return. -/
theorem test_send_line_feed :
    traceOf (step (txState .send 0x0A#8 [])) = some (resetEvents {} ++ [.w 0x3F8#16 0x0A#8]) := by decide

/-- W3: after the first byte the second polls. -/
theorem test_send_next_byte :
    (nextState? (step (txState .send 0x41#8 [0x42#8]))).map (fun s => (s.phase, s.cur, s.rest)) =
      some (.poll, 0x42#8, []) := by decide

/-- V4: from THRE = 1, WR_THR 0x41 leaves THR 0x41, THRE 0 and the byte on the wire. -/
theorem test_wr_thr_accepted :
    (devOf (exec (.wrThr 0x41#8) (refState true idleState))).map (fun d => (d.thr, d.thre, d.wire)) =
      some (0x41#8, false, [0x41#8]) := by decide

/-- V4: from THRE = 0, WR_THR 0x42 faults, with the event recorded. -/
theorem test_wr_thr_overrun :
    faultOf (exec (.wrThr 0x42#8) (refState false idleState)) = some (some (.thrOverrunHazard 0x42#8)) ∧
    traceOf (exec (.wrThr 0x42#8) (refState false idleState)) = some (resetEvents {} ++ [.w 0x3F8#16 0x42#8]) := by
  decide

/-- P6: with DLAB set, 0x80 to port 0x3F8 is the divisor's low byte, not data. -/
theorem test_wr_dll_in_window :
    (devOf (exec (.wrDll 0x80#8) (windowState .rst1))).map (fun d => (d.dll, d.thr)) = some (0x80#8, 0x00#8) := by
  decide

/-- R103: with DLAB clear offset 1 is unmodelled. -/
theorem test_wr_dlm_unmodelled :
    faultOf (exec (.wrDlm 0x01#8) (refState true idleState)) =
      some (some (.unmodelledRegister 0x09#5 0x3F9#16)) := by decide

/-- P7, steps 1 and 3: the reference device answers 0x20 with THRE set and 0x00 with it clear, the other bits drawn
as 0. -/
theorem test_rd_lsr_reference :
    traceOf (exec .rdLsr { refState true idleState with trace := [], lsrIn := [0x00#8] }) =
      some [.r 0x3FD#16 0x20#8] ∧
    traceOf (exec .rdLsr { refState false idleState with trace := [], lsrIn := [0x00#8] }) =
      some [.r 0x3FD#16 0x00#8] := by decide

/-- P7, step 4: the drain step sets THRE and records nothing. -/
theorem test_drain_step :
    (nextState? (step (turnOf .device (refState false (txState .poll 0x42#8 []))))).map
      (fun s => (s.dev.thre, s.trace)) = some (true, resetEvents {}) := by decide

/-- R63, R173: without a device a write is an event that changes no register, and a read is a draw. -/
theorem test_absent_device :
    devOf (exec (.wrLcr 0x80#8) (absentState idleState)) = some idleState.dev ∧
    traceOf (exec (.wrLcr 0x80#8) (absentState idleState)) = some (resetEvents {} ++ [.w 0x3FB#16 0x80#8]) ∧
    faultOf (exec (.wrDlm 0x01#8) (absentState idleState)) = some none ∧
    traceOf (exec .rdLsr { absentState idleState with trace := [], lsrIn := [0xDF#8] }) =
      some [.r 0x3FD#16 0xDF#8] := by decide

/-- Section 2.4: the reserved opcodes 0x04 and 0xFF in Idle. -/
theorem test_host_illegal :
    faultOf (step (turnOf .host { idleState with hostStream := [0x04#8] })) = some (some (.illegalCommand 0x04#8)) ∧
    faultOf (step (turnOf .host { idleState with hostStream := [0xFF#8] })) = some (some (.illegalCommand 0xFF#8)) := by
  decide

/-- Section 2.4: busy is checked before decode, 0x07 in Rst2 and 0x03 in Poll. -/
theorem test_host_busy :
    faultOf (step (turnOf .host { windowState .rst2 with hostStream := [0x07#8] })) =
      some (some (.busyViolation .rst2)) ∧
    faultOf (step (turnOf .host { txState .poll 0x55#8 [] with hostStream := [0x03#8] })) =
      some (some (.busyViolation .poll)) := by decide

/-- Section 2.4: a truncated command in Idle, the position counted in the whole stream. -/
theorem test_host_truncated :
    refusalOf (step { idleState with hostStream := [0x01#8] }) = some (.truncated 1) ∧
    refusalOf (step { idleState with hostStream := [0x03#8, 0x02#8, 0x05#8], hostPos := 1 }) = some (.truncated 3) := by
  decide

/-- Section 2.4: in a faulted block nothing happens. -/
theorem test_faulted_stops :
    step (turnOf .host { faultedState with hostStream := [0x00#8] }) = .fault (.halted (.busyViolation .poll)) :=
  rfl

/-- R171: the codes of the four reasons. -/
theorem test_fault_codes :
    [FaultReason.illegalCommand 0x04#8, .busyViolation .poll, .unmodelledRegister 0x09#5 0x3F9#16,
      .thrOverrunHazard 0x41#8].map FaultReason.code = [1, 2, 3, 4] := by decide

/-- R22: the phase encodings; 7 is no phase. -/
theorem test_phase_codes :
    [Phase.rst0, .rst1, .rst2, .rst3, .idle, .poll, .send].map Phase.code = [0#3, 1#3, 2#3, 3#3, 4#3, 5#3, 6#3] ∧
      Phase.ofCode 7#3 = none := by decide

/-- R203: after the launch RESET with nothing to deliver the run is finished; with a fault it is not (P5). -/
theorem test_finished : finished idleState = true ∧ finished faultedState = false := by decide

/-! ## Text -/

/-- P1, P3, P6 and the pseudo-instructions of R82. -/
theorem test_assembler_lines :
    assemble {} "WRITE \"AB\"      ; boot\nNEWLINE".toList = .ok [.write [0x41#8, 0x42#8], .newline] ∧
    assemble {} "WRITE_BYTE 'A'\nRESET".toList = .ok [.writeByte 0x41#8, .reset] ∧
    assemble {} "WRITE 65, 0x00, 'B'".toList = .ok [.write [0x41#8, 0x00#8, 0x42#8]] ∧
    assemble {} "WRITE [0x0A]".toList = .ok [.write [0x0A#8]] ∧
    assemble {} "PUTLN \"A\\r\\x7F\"".toList = .ok [.write [0x41#8, 0x0D#8, 0x7F#8], .newline] ∧
    assemble {} "INIT\nPUTC 0x55".toList = .ok [.reset, .writeByte 0x55#8] := by decide

/-- R80: an immediate outside 0 to 255 and an unknown mnemonic are refused. -/
theorem test_assembler_refuses :
    assemble {} "RESET\nWRITE_BYTE 256".toList = .refused 2 (.outOfRange 256) ∧
    assemble {} "HALT".toList = .refused 1 .unknownMnemonic ∧
    assemble { maxWriteLen := 1#16 } "WRITE \"AB\"".toList = .refused 1 (.tooLong 2) := by decide

/-- R81: both spellings of P1's first events. -/
theorem test_trace_text :
    (resetEvents {}).map Event.text =
      ["W(0x3FB,0x80)".toList, "W(0x3F8,0x01)".toList, "W(0x3F9,0x00)".toList, "W(0x3FB,0x03)".toList] ∧
    traceMnemonics false (resetEvents {} ++ [.r 0x3FD#16 0x60#8, .w 0x3F8#16 0x41#8]) =
      ["WR_LCR 0x80", "WR_DLL 0x01", "WR_DLM 0x00", "WR_LCR 0x03", "RD_LSR -> 0x60", "WR_THR 0x41"].map
        (fun t => some t.toList) := by decide

/-! ## Witnesses: states and operands that meet the hypotheses of the statements -/

/-- EncodeDecodeRoundTrip: the longest WRITE, and a transaction. -/
theorem witness_EncodeDecodeRoundTrip :
    (Instr.write (List.replicate 65535 0#8)).wellFormed = true ∧ (Instr.wrLcr 0xFF#8).wellFormed = true :=
  ⟨test_wf_write_longest, rfl⟩

/-- DecodedBytesAreTheEncoding. -/
theorem witness_DecodedBytesAreTheEncoding :
    decodeCommand [0x02#8, 0x01#8, 0x00#8, 0x41#8, 0x03#8] = .ok (.write [0x41#8]) [0x03#8] := by decide

/-- StreamDecodesOrIsTruncated: two commands, and a WRITE cut in its count and in its bytes. -/
theorem witness_StreamDecodesOrIsTruncated :
    (∀ i ∈ [Instr.newline, .writeByte 0x41#8], i.wellFormed = true ∧ i.level = .command) ∧
      (Instr.write [0x41#8, 0x42#8]).wellFormed = true ∧ (Instr.write [0x41#8, 0x42#8]).level = .command ∧
      0 < 1 ∧ 4 < (encode (.write [0x41#8, 0x42#8])).length := by decide

/-- ReservedOpcodesAreIllegal: the first and the last. -/
theorem witness_ReservedOpcodesAreIllegal : 4 ≤ (0x04#8).toNat ∧ 4 ≤ (0xFF#8).toNat := by decide

/-- SelectKeysDecodeAsTabled: each clause at a key. -/
theorem witness_SelectKeysDecodeAsTabled :
    decodeSelect (selectKey true true 0#3) = some .wrDll ∧ decodeSelect (selectKey false true 0#3) = some .wrThr ∧
      decodeSelect (selectKey true true 1#3) = some .wrDlm ∧ decodeSelect (selectKey false true 3#3) = some .wrLcr ∧
      decodeSelect (selectKey true false 5#3) = some .rdLsr ∧ decodeSelect (selectKey true false 0#3) = none := by decide

/-- ThreTestIsBitFive: two values that agree on bit 5. -/
theorem witness_ThreTestIsBitFive : (0x20#8).getLsbD 5 = (0xFF#8).getLsbD 5 := by decide

/-- ResetAdmission, WriteByteAdmission, WriteAdmission, EmptyWriteChangesNothing: an Idle block. -/
theorem witness_Admission : idleState.fault = none ∧ idleState.phase = .idle := by decide

/-- NewlineAdmission: the empty sequence and the default one. -/
theorem witness_NewlineAdmission :
    ({ idleState with cfg := { newlineSeq := [] } } : State).cfg.newlineSeq = [] ∧
      idleState.cfg.newlineSeq = 0x0D#8 :: [0x0A#8] ∧ idleState.fault = none ∧ idleState.phase = .idle := by decide

/-- A block busy in Poll to which a second writer delivers (P4). -/
def busyState : State := turnOf .host { txState .poll 0x55#8 [] with hostStream := [0x03#8] }

/-- BusyDeliveryFaults. -/
theorem witness_BusyDeliveryFaults :
    busyState.fault = none ∧ busyState.nextAgent = .host ∧ busyState.pending ≠ [] ∧ busyState.phase ≠ .idle := by decide

/-- BusyCommandsFault. -/
theorem witness_BusyCommandsFault :
    Instr.level .reset = .command ∧ busyState.fault = none ∧ busyState.phase ≠ .idle := by decide

/-- An Idle block whose host moves next and has these bytes to deliver. -/
def hostState (bytes : List Byte) : State := turnOf .host { idleState with hostStream := bytes }

/-- IllegalOpcodeFaults: the lowest reserved opcode. -/
theorem witness_IllegalOpcodeFaults :
    (hostState [0x04#8]).fault = none ∧ (hostState [0x04#8]).nextAgent = .host ∧
      (hostState [0x04#8]).phase = .idle ∧ (hostState [0x04#8]).pending = 0x04#8 :: [] ∧ 4 ≤ (0x04#8).toNat := by decide

/-- TruncatedDeliveryRefused: WRITE_BYTE without its operand. -/
theorem witness_TruncatedDeliveryRefused :
    (hostState [0x01#8]).fault = none ∧ (hostState [0x01#8]).nextAgent = .host ∧
      (hostState [0x01#8]).phase = .idle ∧ (Instr.writeByte 0#8).wellFormed = true ∧
      (Instr.writeByte 0#8).level = .command ∧ 0 < 1 ∧ 1 < (encode (.writeByte 0#8)).length ∧
      (hostState [0x01#8]).pending = (encode (.writeByte 0#8)).take 1 := by decide

/-- HostStepRunsTheCommand: P1's stream. -/
theorem witness_HostStepRunsTheCommand :
    (hostState [0x02#8, 0x02#8, 0x00#8, 0x41#8, 0x42#8, 0x03#8]).fault = none ∧
      (hostState [0x02#8, 0x02#8, 0x00#8, 0x41#8, 0x42#8, 0x03#8]).nextAgent = .host ∧
      (hostState [0x02#8, 0x02#8, 0x00#8, 0x41#8, 0x42#8, 0x03#8]).phase = .idle ∧
      (Instr.write [0x41#8, 0x42#8]).wellFormed = true ∧ (Instr.write [0x41#8, 0x42#8]).level = .command ∧
      (hostState [0x02#8, 0x02#8, 0x00#8, 0x41#8, 0x42#8, 0x03#8]).pending =
        encode (.write [0x41#8, 0x42#8]) ++ [0x03#8] := by decide

/-- IdleWaits: the sequencer's turn, and the host's with nothing to deliver. -/
theorem witness_IdleWaits :
    (turnOf .sequencer idleState).fault = none ∧ (turnOf .sequencer idleState).phase = .idle ∧
      (turnOf .sequencer idleState).nextAgent = .sequencer ∧ (hostState []).nextAgent = .host ∧
      (hostState []).pending = [] ∧ (hostState []).fault = none ∧ (hostState []).phase = .idle := by decide

/-- CommandFrame: RESET in Idle, and WRITE on a busy block. -/
theorem witness_CommandFrame :
    Instr.level .reset = .command ∧ (∃ t, exec .reset idleState = .next t) ∧ idleState.phase = .idle ∧
      (∃ t, exec (.write [0x41#8]) busyState = .next t) ∧ busyState.phase ≠ .idle :=
  ⟨rfl, ⟨_, rfl⟩, rfl, ⟨_, rfl⟩, by decide⟩

/-- WrLcrEffect, RdLsrEffect: each device model; an answer is listed. -/
theorem witness_TransactionCompletes :
    idleState.fault = none ∧ idleState.cfg.device = .oracle ∧ (refState true idleState).fault = none ∧
      (refState true idleState).cfg.device = .reference ∧ (absentState idleState).fault = none ∧
      (absentState idleState).cfg.device = .absent ∧
      ({ idleState with lsrIn := [0x60#8] } : State).lsrIn = 0x60#8 :: [] := by decide

/-- WrDllEffect: DLAB set. -/
theorem witness_WrDllEffect :
    (windowState .rst1).fault = none ∧ (windowState .rst1).dev.lcr.getLsbD 7 = true ∧
      (Instr.wrDll 0#8 = .wrDll 0#8 ∨ Instr.wrDll 0#8 = .wrThr 0#8) ∧
      (Instr.wrThr 0#8 = .wrDll 0#8 ∨ Instr.wrThr 0#8 = .wrThr 0#8) := by decide

/-- WrDlmEffect: DLAB set; DLAB clear in each device model. -/
theorem witness_WrDlmEffect :
    (windowState .rst2).fault = none ∧ (windowState .rst2).dev.lcr.getLsbD 7 = true ∧
      idleState.fault = none ∧ idleState.dev.lcr.getLsbD 7 = false ∧ idleState.cfg.device = .oracle ∧
      (refState true idleState).fault = none ∧ (refState true idleState).dev.lcr.getLsbD 7 = false ∧
      (refState true idleState).cfg.device = .reference := by decide

/-- WrThrEffect, ThrOverrunFaults: DLAB clear; THRE set, and clear; no device. The instruction is either one. -/
theorem witness_WrThrEffect :
    (refState true idleState).fault = none ∧ (refState true idleState).dev.lcr.getLsbD 7 = false ∧
      (refState true idleState).cfg.device = .reference ∧ (refState true idleState).dev.thre = true ∧
      (refState false idleState).fault = none ∧ (refState false idleState).dev.lcr.getLsbD 7 = false ∧
      (refState false idleState).cfg.device = .reference ∧ (refState false idleState).dev.thre = false ∧
      (absentState idleState).fault = none ∧ (absentState idleState).dev.lcr.getLsbD 7 = false ∧
      (absentState idleState).cfg.device = .absent := by decide

/-- UnmodelledAccess: offset 1 with DLAB clear (write) and offset 0 (read), in both device models. -/
theorem witness_UnmodelledAccess :
    decodeSelect (selectKey idleState.dlab true 1#3) = none ∧ decodeSelect (selectKey idleState.dlab false 0#3) = none ∧
      idleState.cfg.device = .oracle ∧ decodeSelect (selectKey (refState true idleState).dlab true 1#3) = none ∧
      decodeSelect (selectKey (refState true idleState).dlab false 0#3) = none ∧
      (refState true idleState).cfg.device = .reference := by decide

/-- TransactionFrame: a write and the read, in the oracle model, and a write without a device. -/
theorem witness_TransactionFrame :
    Instr.level (.wrThr 0x41#8) = .bus ∧ (∃ t, exec (.wrThr 0x41#8) idleState = .next t) ∧
      Instr.level .rdLsr = .bus ∧ (∃ t, exec .rdLsr idleState = .next t) ∧ idleState.cfg.device = .oracle ∧
      (∃ t, exec (.wrThr 0x41#8) (absentState idleState) = .next t) ∧ (absentState idleState).cfg.device = .absent :=
  ⟨rfl, ⟨_, rfl⟩, rfl, ⟨_, rfl⟩, rfl, ⟨_, rfl⟩, rfl⟩

/-- FaultedBlockStops. -/
theorem witness_FaultedBlockStops : faultedState.fault = some (.busyViolation .poll) := by decide

/-- Whether the sequencer moves next in a state of this phase without a fault. -/
def sequencerIn (p : Phase) (s : State) : Bool :=
  decide (s.fault = none) && decide (s.nextAgent = .sequencer) && decide (s.phase = p)

/-- SequencerStepRunsTheTransaction, Rst0Step, Rst3Step, PollStep: each phase. -/
theorem witness_SequencerSteps :
    sequencerIn .rst0 State.reset = true ∧ sequencerIn .rst1 (windowState .rst1) = true ∧
      sequencerIn .rst2 (windowState .rst2) = true ∧ sequencerIn .rst3 (windowState .rst3) = true ∧
      sequencerIn .poll (txState .poll 0x41#8 []) = true ∧ sequencerIn .send (txState .send 0x41#8 []) = true := by
  decide

/-- DivisorSteps: Rst1 and Rst2 with DLAB set, and without a device. -/
theorem witness_DivisorSteps :
    sequencerIn .rst1 (windowState .rst1) = true ∧ (windowState .rst1).dev.lcr.getLsbD 7 = true ∧
      sequencerIn .rst2 (windowState .rst2) = true ∧ (windowState .rst2).dev.lcr.getLsbD 7 = true ∧
      sequencerIn .rst1 (absentState (windowState .rst1)) = true ∧
      (absentState (windowState .rst1)).cfg.device = .absent := by decide

/-- SendStep: the last byte in the oracle model, and a byte before the last in the reference model. -/
theorem witness_SendStep :
    sequencerIn .send (txState .send 0x41#8 []) = true ∧ (txState .send 0x41#8 []).dev.lcr.getLsbD 7 = false ∧
      (txState .send 0x41#8 []).cfg.device ≠ .reference ∧ (txState .send 0x41#8 []).rest = [] ∧
      sequencerIn .send (refState true (txState .send 0x41#8 [0x42#8])) = true ∧
      (refState true (txState .send 0x41#8 [0x42#8])).dev.lcr.getLsbD 7 = false ∧
      (refState true (txState .send 0x41#8 [0x42#8])).dev.thre = true ∧
      (refState true (txState .send 0x41#8 [0x42#8])).rest = 0x42#8 :: [] := by decide

/-- DrainStep: the drain enabled, not enabled, and in the oracle model. -/
theorem witness_DrainStep :
    (turnOf .device (refState false idleState)).fault = none ∧
      (turnOf .device (refState false idleState)).nextAgent = .device ∧
      (turnOf .device (refState false idleState)).cfg.device = .reference ∧
      (turnOf .device idleState).fault = none ∧ (turnOf .device idleState).nextAgent = .device ∧
      (turnOf .device idleState).cfg.device = .oracle := by decide

/-- The sequencer's turns, `k` of them. -/
def seqTurns (k : Nat) (s : State) : State := { s with sched := List.replicate k .sequencer }

/-- ResetSequence: the launch. -/
theorem witness_ResetSequence :
    (seqTurns 4 State.reset).fault = none ∧ (seqTurns 4 State.reset).phase = .rst0 ∧
      opensWindow (seqTurns 4 State.reset).cfg = true ∧ SequencerTurns 4 (seqTurns 4 State.reset) :=
  ⟨rfl, rfl, rfl, [], rfl⟩

/-- LaunchState: a format with bit 7, a zero divisor, and a configuration that is admitted. -/
theorem witness_LaunchState :
    ({ lcrFormat := 0x83#8 } : Config).lcrFormat.getLsbD 7 = true ∧ ({ divisor := 0#16 } : Config).divisor = 0#16 ∧
      ({} : Config).lcrFormat.getLsbD 7 = false ∧ ({} : Config).divisor ≠ 0#16 := by decide

/-- LaunchRunsReset, LaunchHasBlockInv: the default launch. -/
theorem witness_LaunchRunsReset : State.launch {} Uart.reset = .next State.reset ∧ opensWindow {} = true :=
  ⟨test_launch_default, by decide⟩

/-- ResetIsIdempotent. -/
theorem witness_ResetIsIdempotent :
    (seqTurns 8 idleState).fault = none ∧ (seqTurns 8 idleState).phase = .idle ∧ (seqTurns 8 idleState).rest = [] ∧
      opensWindow (seqTurns 8 idleState).cfg = true ∧ SequencerTurns 8 (seqTurns 8 idleState) :=
  ⟨rfl, rfl, rfl, rfl, [], rfl⟩

/-- W4: WRITE_BYTE polling with the answers not ready, not ready, ready. -/
def threePolls : State := seqTurns 4 { txState .poll 0x41#8 [] with lsrIn := [0x00#8, 0x00#8, 0x20#8] }

/-- PollCount: three polls (W4). -/
theorem witness_PollCount :
    threePolls.fault = none ∧ threePolls.phase = .poll ∧ threePolls.cfg.device = .oracle ∧
      pollCount threePolls.lsrIn = some 3 ∧ SequencerTurns (3 + 1) threePolls :=
  ⟨rfl, rfl, rfl, by decide, [], rfl⟩

/-- NeverReadyHangs: two answers 0xDF (P4). -/
theorem witness_NeverReadyHangs :
    ∃ s : State, s.fault = none ∧ s.phase = .poll ∧ s.cfg.device = .oracle ∧
      s.lsrIn = [0xDF#8, 0xDF#8] ++ [] ∧ (∀ u ∈ [0xDF#8, 0xDF#8], ready u = false) ∧ SequencerTurns 2 s :=
  ⟨seqTurns 2 { txState .poll 0x55#8 [] with lsrIn := [0xDF#8, 0xDF#8] }, rfl, rfl, rfl, rfl, by decide, [], rfl⟩

/-- An Idle block with the answers of the row WRITE "AB" of section 2.3 and five turns of the sequencer. -/
def writeAB : State := seqTurns 5 { idleState with lsrIn := [0x00#8, 0x20#8, 0x20#8] }

/-- The events of that row. -/
def eventsAB : List Event :=
  [.r 0x3FD#16 0x00#8, .r 0x3FD#16 0x20#8, .w 0x3F8#16 0x41#8, .r 0x3FD#16 0x20#8, .w 0x3F8#16 0x42#8]

/-- WriteRunsToCompletion, the first part of TransmitCounts: that row. -/
theorem witness_WriteRunsToCompletion :
    writeAB.fault = none ∧ writeAB.phase = .idle ∧ writeAB.rest = [] ∧ writeAB.cfg.device = .oracle ∧
      transmitEvents [0x41#8, 0x42#8] writeAB.lsrIn = some (eventsAB, []) ∧ SequencerTurns eventsAB.length writeAB :=
  ⟨rfl, rfl, rfl, rfl, by decide, [], rfl⟩

/-- WritesBackToBack: the same bytes in two commands. -/
theorem witness_WritesBackToBack :
    writeAB.fault = none ∧ writeAB.phase = .idle ∧ writeAB.rest = [] ∧ writeAB.cfg.device = .oracle ∧
      transmitEvents ([0x41#8] ++ [0x42#8]) writeAB.lsrIn = some (eventsAB, []) ∧
      SequencerTurns eventsAB.length writeAB :=
  ⟨rfl, rfl, rfl, rfl, by decide, [], rfl⟩

/-- ConfigurationIsNeverWritten, AtMostOneTransactionPerStep, CacheWrittenOnlyByRst3, PhaseTransitions: a step of the
sequencer, of the host and of the device. -/
theorem witness_Steps :
    (∃ t, step (windowState .rst3) = .next t) ∧ (∃ t, step (hostState [0x03#8]) = .next t) ∧
      (hostState [0x03#8]).nextAgent ≠ .sequencer ∧ (∃ t, step (turnOf .device (refState false idleState)) = .next t) :=
  ⟨⟨_, rfl⟩, ⟨_, rfl⟩, by decide, ⟨_, rfl⟩⟩

/-- The checks of the invariant, as one Boolean. -/
def invChecks (d : Bool) (s : State) : Bool :=
  s.cfg.wellFormed && opensWindow s.cfg &&
    decide (s.cfg.device ≠ .absent → ∀ v ∈ (lastLcrWrite s.trace).toList, s.dev.lcr = v) &&
    decide (s.cfg.device ≠ .absent → (scanTrace d s.trace).dlab = s.dlab) && (scanTrace d s.trace).ok &&
    decide (s.phase.inWindow = true → (scanTrace d s.trace).dlab = true) &&
    decide (s.lcr ≠ none → s.phase.inWindow = false → (scanTrace d s.trace).dlab = false) &&
    decide (s.lcr = none → s.phase.inReset = true) && decide (∀ v ∈ s.lcr.toList, v = s.cfg.lcrFormat) &&
    decide (s.phase = .send → (scanTrace d s.trace).armed = true) &&
    decide (s.phase = .send → s.cfg.device = .reference → s.dev.thre = true) &&
    decide (inTransmit s.phase = false → s.rest = []) && decide (∀ r ∈ s.fault.toList, isDeviceFault r = false)

/-- The checks say the invariant. -/
theorem blockInv_of_checks {d : Bool} {s : State} (h : invChecks d s = true) : BlockInv d s := by
  simp only [invChecks, Bool.and_eq_true, decide_eq_true_eq, Option.mem_toList] at h
  obtain ⟨⟨⟨⟨⟨⟨⟨⟨⟨⟨⟨⟨h1, h2⟩, h3⟩, h4⟩, h5⟩, h6⟩, h7⟩, h8⟩, h9⟩, h10⟩, h11⟩, h12⟩, h13⟩ := h
  exact ⟨⟨h1, h2⟩, h3, h4, h5, h6, h7, h8, h9, h10, h11, h12, h13⟩

/-- The invariant at reset. -/
theorem witness_reset_inv : BlockInv false State.reset := blockInv_of_checks (by decide)

/-- Send after a ready read, in the reference device model. -/
def sendState : State :=
  { refState true (txState .send 0x41#8 [0x42#8]) with trace := resetEvents {} ++ [.r 0x3FD#16 0x60#8] }

/-- StepKeepsBlockInv, DlabWindow, SequencerIssuesDecodedSelects: the launch's first step, and a Send. -/
theorem witness_StepKeepsBlockInv :
    BlockInv false State.reset ∧ (∃ t, step State.reset = .next t) ∧ State.reset.nextAgent = .sequencer ∧
      State.reset.lcr = none ∧ BlockInv false sendState ∧ (∃ t, step sendState = .next t) ∧
      sendState.nextAgent = .sequencer :=
  ⟨witness_reset_inv, ⟨_, rfl⟩, rfl, rfl, blockInv_of_checks (by decide), ⟨_, rfl⟩, by decide⟩

/-- The same without a device, whose registers never took the format: DLAB there is as it was at launch. -/
def absentSend : State :=
  { absentState (txState .send 0x41#8 []) with
    trace := resetEvents {} ++ [.r 0x3FD#16 0x60#8], dev := { Uart.reset with lcr := 0xFF#8 } }

/-- The invariant's statements, the second and the third part of DlabWindow among them: no device, a cache that is
written, a last LCR write, and the launch's first step, which appends an event. -/
theorem witness_DlabWindow :
    BlockInv true absentSend ∧ (∃ t, step absentSend = .next t ∧ t.lcr ≠ none ∧
      lastLcrWrite t.trace = some 0x03#8) ∧ absentSend.cfg.device = .absent ∧
      (∃ t, step State.reset = .next t ∧ t.trace = State.reset.trace ++ [.w 0x3FB#16 0x80#8] ∧
        t.cfg.device ≠ .absent) ∧ State.reset.lcr = none :=
  ⟨blockInv_of_checks (by decide), ⟨_, rfl, by decide, by decide⟩, rfl, ⟨_, rfl, rfl, by decide⟩, rfl⟩

/-- The step of Send: the data write is the event it appends (DataWriteFollowsReadyRead). -/
theorem witness_DataWriteFollowsReadyRead :
    BlockInv false sendState ∧ (scanTrace false sendState.trace).dlab = false ∧
      ∃ t, step sendState = .next t ∧ t.trace = sendState.trace ++ [.w 0x3F8#16 0x41#8] :=
  ⟨blockInv_of_checks (by decide), by decide, _, rfl, rfl⟩

/-- ThreChanges: THRE falls by Send, and rises by the drain step. -/
theorem witness_ThreChanges :
    (BlockInv false sendState ∧ sendState.dev.thre = true ∧ ∃ t, step sendState = .next t ∧ t.dev.thre = false) ∧
      (BlockInv false (turnOf .device (refState false idleState)) ∧
        (turnOf .device (refState false idleState)).dev.thre = false ∧
        ∃ t, step (turnOf .device (refState false idleState)) = .next t ∧ t.dev.thre = true) :=
  ⟨⟨blockInv_of_checks (by decide), rfl, _, rfl, rfl⟩, blockInv_of_checks (by decide), rfl, _, rfl, rfl⟩

/-- ReferenceStepIsAnOracleStep: Send of the reference device model. -/
theorem witness_ReferenceStepIsAnOracleStep :
    BlockInv false sendState ∧ sendState.cfg.device = .reference ∧ sendState.nextAgent = .sequencer ∧
      ∃ t, step sendState = .next t :=
  ⟨blockInv_of_checks (by decide), rfl, by decide, _, rfl⟩

/-- DeviceStateIsInvisible: a device in the oracle model, and none. -/
theorem witness_DeviceStateIsInvisible :
    (txState .send 0x41#8 []).cfg.device ≠ .reference ∧ (∃ t, step (txState .send 0x41#8 []) = .next t) ∧
      DeviceModel.absent ≠ .reference ∧ absentSend.cfg.device = .absent ∧ ∃ t, step absentSend = .next t :=
  ⟨by decide, ⟨_, rfl⟩, by decide, rfl, _, rfl⟩

/-- PollSeesOnlyBitFive: the answers 0x20 and 0xFF. -/
theorem witness_PollSeesOnlyBitFive :
    (txState .poll 0x41#8 []).phase = .poll ∧ (txState .poll 0x41#8 []).nextAgent = .sequencer ∧
      (txState .poll 0x41#8 []).cfg.device = .oracle ∧ (0x20#8).getLsbD 5 = (0xFF#8).getLsbD 5 ∧
      (∃ t, step { txState .poll 0x41#8 [] with lsrIn := 0x20#8 :: [] } = .next t) ∧
      (∃ u, step { txState .poll 0x41#8 [] with lsrIn := 0xFF#8 :: [] } = .next u) :=
  ⟨rfl, by decide, rfl, by decide, ⟨_, rfl⟩, ⟨_, rfl⟩⟩

/-- DrainMakesPollReady. -/
theorem witness_DrainMakesPollReady :
    ∃ s : State, s.fault = none ∧ s.phase = .poll ∧ s.cfg.device = .reference ∧
      s.sched = .device :: .sequencer :: [] :=
  ⟨{ refState false (txState .poll 0x42#8 []) with sched := [.device, .sequencer] }, rfl, rfl, rfl, rfl⟩

/-! ## Infinite runs -/

/-- The state a step answers, the state itself where it answers none. -/
def after (s : State) : State := (nextState? (step s)).getD s

/-- A step to a next state is a step to `after`. -/
theorem step_after {s t : State} (h : step s = .next t) : step s = .next (after s) := by simp [after, h, nextState?]

/-- An Idle block with one ready answer and two turns of the sequencer. -/
def writeA : State := seqTurns 2 { idleState with lsrIn := [0x20#8] }

/-- WRITE "A" admitted in it. -/
def admittedA : State := { writeA with cur := 0x41#8, rest := [], phase := .poll }

/-- Its run: Poll, Send, and Idle for ever. -/
def runA : Nat → State
  | 0 => admittedA
  | 1 => after admittedA
  | n + 2 => { after (after admittedA) with draws := (after (after admittedA)).draws + n }

/-- It is a run of the machine. -/
theorem runA_isRun : IsRun runA
  | 0 => rfl
  | 1 => rfl
  | _ + 2 => rfl

/-- It meets THRE_EVENTUALLY: its one Poll state reads 0x20. -/
theorem runA_threEventually : ThreEventually runA
  | 0, _ => ⟨0, le_rfl, fun _ _ h => by rw [Nat.le_zero.1 h]; rfl, by decide, by decide, by decide⟩
  | 1, h => absurd h (by decide)
  | _ + 2, h => absurd h (by simp [runA, after, nextState?]; decide)

/-- The second part of TransmitCounts. -/
theorem witness_TransmitCounts :
    writeA.phase = .idle ∧ exec (.write [0x41#8]) writeA = .next (runA 0) ∧ IsRun runA ∧ ThreEventually runA :=
  ⟨rfl, rfl, runA_isRun, runA_threEventually⟩

/-- The reference device model in Poll with THRE clear: a drain, two turns of the sequencer, and a drain. -/
def drainingA : State :=
  { refState false (txState .poll 0x41#8 []) with
    sched := [.device, .sequencer, .sequencer, .device], lsrIn := [0x00#8] }

/-- Its run: after the second drain it is Idle for ever with THRE set. -/
def runB : Nat → State
  | 0 => drainingA
  | 1 => after drainingA
  | 2 => after (after drainingA)
  | 3 => after (after (after drainingA))
  | n + 4 =>
    { after (after (after (after drainingA))) with draws := (after (after (after (after drainingA)))).draws + n }

/-- It is a run of the machine. -/
theorem runB_isRun : IsRun runB
  | 0 => rfl
  | 1 => rfl
  | 2 => rfl
  | 3 => rfl
  | _ + 4 => rfl

/-- It is weakly fair to the drain step, which is enabled for good at no point. -/
theorem runB_fair : WeakFairDrain runB := fun n h =>
  absurd (h (n + 4) (by omega)) (by rw [show (runB (n + 4)).drainEnabled = false from rfl]; decide)

/-- The second part of DrainMakesPollReady; the run begins in Poll with THRE clear. -/
theorem witness_fair_run :
    IsRun runB ∧ (runB 0).cfg.device = .reference ∧ WeakFairDrain runB ∧ (runB 0).phase = .poll ∧
      (runB 0).dev.thre = false :=
  ⟨runB_isRun, rfl, runB_fair, rfl, rfl⟩

/-- AssemblerRefusesLargeImmediates: 256, with a comment after it, and 0x1fF. -/
theorem witness_AssemblerRefusesLargeImmediates :
    (∀ c ∈ ['2', '5', '6'], c.isDigit = true) ∧ (∀ c, [' ', ';'].head? = some c → c.isDigit = false) ∧
      255 < digitsValue 10 ['2', '5', '6'] ∧ (∀ c ∈ ['1', 'f', 'F'], (hexValue c).isSome = true) ∧
      (∀ c, [' ', ';'].head? = some c → hexValue c = none) ∧ 255 < digitsValue 16 ['1', 'f', 'F'] :=
  ⟨by simp, by simp, by simp [digitsValue, hexValue], by simp [hexValue], by simp [hexValue],
    by simp [digitsValue, hexValue]⟩

end Sys2Proof.Tests
end

section
/-!
PROOFS. What one bus transaction does to the state, what a step appends to the trace, and what the host's decoder reads:
the rules the statements of the scope (00_scope.md) are settled from.
-/

namespace Sys2Proof

/-! ## The decoder on an encoded command -/

/-- The two bytes of a WRITE's length field give the length back (R73). -/
theorem lengthField_bytes {n : Nat} (h : n ≤ 65535) :
    lengthField (lowByte (BitVec.ofNat 16 n)) (highByte (BitVec.ofNat 16 n)) = n := by
  have hv (v : BitVec 16) : highByte v ++ lowByte v = v :=
    (BitVec.extractLsb'_append_extractLsb'_eq_extractLsb' (start₁ := 0) (start₂ := 8) rfl).trans
      BitVec.extractLsb'_eq_self
  rw [lengthField, hv, BitVec.toNat_ofNat, Nat.mod_eq_of_lt (by omega)]

/-- The host's decoder reads an encoded command back, and stops where the command ends (R71 to R73). -/
theorem decodeCommand_encode {i : Instr} (tail : List Byte) (hw : i.wellFormed = true) (hl : i.level = .command) :
    decodeCommand (encode i ++ tail) = .ok i tail := by
  cases i with
  | reset => rfl
  | writeByte b => rfl
  | newline => rfl
  | write bytes =>
    have hn := lengthField_bytes ((wellFormed_write bytes).mp hw)
    simp [encode, decodeCommand, hn]
  | _ => simp [Instr.level] at hl

/-! ## Which configurations are admitted -/

/-- R8 in bits: `LCR_FORMAT` has bit 7 clear and the divisor is not zero. -/
theorem Config.wellFormed_iff (c : Config) :
    c.wellFormed = true ↔ c.lcrFormat.getLsbD 7 = false ∧ c.divisor ≠ 0#16 := by
  have hmask : ∀ v : Byte, v &&& Config.dlabMask = 0#8 ↔ v.getLsbD 7 = false := by decide
  simp [Config.wellFormed, hmask]

end Sys2Proof

namespace Sys2Proof.Machine

/-! ## Port writes and transactions -/

@[simp] theorem portWrite_cfg (off : Offset) (v : Byte) (s : State) : (s.portWrite off v).cfg = s.cfg := by
  obtain ⟨d, f, h⟩ := portWrite_frame off v s
  rw [h]

@[simp] theorem portWrite_phase (off : Offset) (v : Byte) (s : State) : (s.portWrite off v).phase = s.phase := by
  obtain ⟨d, f, h⟩ := portWrite_frame off v s
  rw [h]

/-- No port write touches the LCR cache (R21). -/
@[simp] theorem portWrite_cache (off : Offset) (v : Byte) (s : State) : (s.portWrite off v).lcr = s.lcr := by
  obtain ⟨d, f, h⟩ := portWrite_frame off v s
  rw [h]

@[simp] theorem portWrite_rest (off : Offset) (v : Byte) (s : State) : (s.portWrite off v).rest = s.rest := by
  obtain ⟨d, f, h⟩ := portWrite_frame off v s
  rw [h]

@[simp] theorem portWrite_trace (off : Offset) (v : Byte) (s : State) :
    (s.portWrite off v).trace = s.trace ++ [.w (portAddr off) v] := by
  obtain ⟨d, f, h⟩ := portWrite_frame off v s
  rw [h]

/-- A bus transaction is a port write or the read of LSR (R101 to R105). -/
theorem exec_bus_cases {i : Instr} (hl : i.level = .bus) :
    (∃ off v, exec i = transact (State.portWrite off v)) ∨ exec i = transact (State.portRead Config.offLsr) := by
  cases i with
  | wrLcr v => exact .inl ⟨_, v, rfl⟩
  | wrDll v => exact .inl ⟨_, v, rfl⟩
  | wrDlm v => exact .inl ⟨_, v, rfl⟩
  | wrThr v => exact .inl ⟨_, v, rfl⟩
  | rdLsr => exact .inr rfl
  | _ => simp [Instr.level] at hl

/-- A bus transaction appends exactly one event (R27, R58). -/
theorem exec_bus_trace {i : Instr} {s t : State} (hl : i.level = .bus) (h : exec i s = .next t) :
    ∃ e, t.trace = s.trace ++ [e] := by
  rcases exec_bus_cases hl with ⟨off, v, hi⟩ | hi
  · rw [hi] at h
    obtain ⟨-, rfl⟩ := transact_next h
    exact ⟨_, portWrite_trace off v s⟩
  · rw [hi] at h
    obtain ⟨-, rfl⟩ := transact_next h
    exact ⟨_, by rw [portRead_lsr]⟩

/-- A micro-step appends the one event of its transaction, whether or not the transaction faults (R58, R172). -/
theorem issue_trace {i : Instr} {k : State → State} {s t : State} (h : issue i k s = .next t)
    (hl : i.level = .bus) (hk : ∀ u, (k u).trace = u.trace) : ∃ e, t.trace = s.trace ++ [e] := by
  obtain ⟨u, hu, rfl⟩ := issue_next h
  obtain ⟨e, he⟩ := exec_bus_trace hl hu
  refine ⟨e, ?_⟩
  split_ifs
  · rw [hk, he]
  · exact he

/-- A micro-step whose transaction `f` raises no fault ends in its update of the registers. -/
theorem issue_next_of_ok {i : Instr} {k f : State → State} {s t : State} (h : issue i k s = .next t)
    (hi : exec i s = transact f s) (hf : (f s).fault = none) : t = k (f s) := by
  obtain ⟨u, hu, rfl⟩ := issue_next h
  obtain ⟨-, rfl⟩ := transact_next (hi ▸ hu)
  rw [if_pos hf]

/-! ## The trace of one agent's step -/

/-- A host command issues no transaction (R58). -/
theorem exec_command_trace {i : Instr} {s t : State} (hl : i.level = .command) (h : exec i s = .next t) :
    t.trace = s.trace := by
  obtain ⟨-, ⟨-, rfl⟩ | ⟨-, -, rfl⟩ | ⟨-, -, rfl⟩ | ⟨-, -, b, bs, rfl⟩⟩ := exec_command_cases hl h <;> rfl

/-- The host's step issues no transaction (R58). -/
theorem hostStep_trace {s t : State} (h : hostStep s = .next t) : t.trace = s.trace := by
  obtain ⟨-, rfl⟩ | ⟨-, -, rfl⟩ | ⟨-, op, rfl⟩ | ⟨-, i, rest, -, hl, hx⟩ := hostStep_cases h
  · rfl
  · rfl
  · rfl
  · exact (exec_command_trace hl hx).trans rfl

/-- The drain step issues no transaction (R43). -/
@[simp] theorem drain_trace (s : State) : s.drain.trace = s.trace := by
  obtain h | ⟨-, -, h⟩ := drain_cases s <;> rw [h]

/-- The sequencer's step issues one transaction, and none in Idle (R11, R58, R151). -/
theorem sequencerStep_trace {s t : State} (h : sequencerStep s = .next t) :
    t.trace = s.trace ∨ ∃ e, t.trace = s.trace ++ [e] := by
  unfold sequencerStep at h
  split at h
  · exact .inr (issue_trace h rfl fun _ => rfl)
  · exact .inr (issue_trace h rfl fun _ => rfl)
  · exact .inr (issue_trace h rfl fun _ => rfl)
  · exact .inr (issue_trace (s := s.setCache s.cfg.lcrFormat) h rfl fun _ => rfl)
  · cases h; exact .inl rfl
  · exact .inr (issue_trace h rfl fun _ => rfl)
  · exact .inr (issue_trace h rfl fun u => (advance_frame u).1)

end Sys2Proof.Machine
end

section
/-!
PROOFS. The block's invariant and each part of a step: how a reading of the trace goes on over one event, and why every
micro-step, the host's step and the drain step keep the invariant.
-/

namespace Sys2Proof.Safety

open Sys2Proof.Machine

/-! ## A reading of the trace over one more event -/

@[simp] theorem scanTrace_append (d : Bool) (es : List Event) (e : Event) :
    scanTrace d (es ++ [e]) = scanEvent (scanTrace d es) e := by
  simp [scanTrace]

/-- An LCR write sets the DLAB of the reading (R31). -/
@[simp] theorem scanEvent_lcr (c : Scan) (v : Byte) :
    scanEvent c (.w (portAddr Config.offLcr) v) = ⟨dlabOf v, false, c.ok⟩ := by
  simp [scanEvent]

/-- An LSR read arms the reading exactly if its value is ready (R141). -/
@[simp] theorem scanEvent_lsr (c : Scan) (v : Byte) :
    scanEvent c (.r (portAddr Config.offLsr) v) = ⟨c.dlab, ready v, c.ok⟩ := by
  simp [scanEvent]

/-- A write of another register leaves the DLAB of the reading. -/
theorem scanEvent_dlab {p : Port} (hp : p ≠ portAddr Config.offLcr) (c : Scan) (v : Byte) :
    (scanEvent c (.w p v)).dlab = c.dlab := by
  simp only [scanEvent, if_neg hp]
  split_ifs <;> rfl

/-- A write of another register is in order if DLAB is set, where it is no data write, or straight after a ready read
(R195). -/
theorem scanEvent_ok {p : Port} (hp : p ≠ portAddr Config.offLcr) {c : Scan} (v : Byte)
    (hc : c.dlab = true ∨ c.armed = true) : (scanEvent c (.w p v)).ok = c.ok := by
  simp only [scanEvent, if_neg hp]
  split_ifs with h
  · simp [hc.resolve_left (by simp [h.2])]
  · rfl

@[simp] theorem lastLcrWrite_append_lcr (es : List Event) (v : Byte) :
    lastLcrWrite (es ++ [.w (portAddr Config.offLcr) v]) = some v := by
  simp [lastLcrWrite]

@[simp] theorem lastLcrWrite_append_read (es : List Event) (p : Port) (v : Byte) :
    lastLcrWrite (es ++ [.r p v]) = lastLcrWrite es := by
  simp [lastLcrWrite]

theorem lastLcrWrite_append_other (es : List Event) {p : Port} (hp : p ≠ portAddr Config.offLcr) (v : Byte) :
    lastLcrWrite (es ++ [.w p v]) = lastLcrWrite es := by
  simp [lastLcrWrite, hp]

/-! ## Where a phase lies -/

/-- The window lies inside the RESET sequence, where no byte is in flight (R38). -/
theorem inReset_of_inWindow {p : Phase} (h : p.inWindow = true) : p.inReset = true ∧ inTransmit p = false := by
  revert h
  cases p <;> decide

/-- A phase with a byte in flight is outside the RESET sequence, and so outside the window (R23, R38). -/
theorem outside_of_inTransmit {p : Phase} (h : inTransmit p = true) : p.inReset = false ∧ p.inWindow = false := by
  revert h
  cases p <;> decide

/-! ## What the invariant says of a phase -/

section
variable {d : Bool} {s : State}

/-- Outside the RESET sequence the cache has been written (R21). -/
theorem BlockInv.cacheWritten (h : BlockInv d s) (hp : s.phase.inReset = false) : s.lcr ≠ none := by
  intro hn
  simp [h.cacheUnwritten hn] at hp

/-- Outside the RESET sequence DLAB is clear (R38). -/
theorem BlockInv.scanDlab_clear (h : BlockInv d s) (hp : s.phase.inReset = false) :
    (scanTrace d s.trace).dlab = false :=
  h.closed (h.cacheWritten hp) (Bool.eq_false_iff.mpr fun hw => by simp [(inReset_of_inWindow hw).1] at hp)

/-- R8: the line format leaves DLAB clear. -/
theorem BlockInv.lcrFormat_clear (h : BlockInv d s) : dlabOf s.cfg.lcrFormat = false :=
  ((Config.wellFormed_iff s.cfg).mp h.config.1).1

/-! ## Turns, the drain step and the host -/

theorem BlockInv.takeTurn (h : BlockInv d s) : BlockInv d s.takeTurn := { h with }

theorem BlockInv.deliver (n : Nat) (h : BlockInv d s) : BlockInv d (s.deliver n) := { h with }

/-- The drain step sets THRE and nothing else (R43). -/
theorem BlockInv.drain (h : BlockInv d s) : BlockInv d s.drain := by
  obtain hd | ⟨-, -, hd⟩ := drain_cases s
  · rwa [hd]
  · rw [hd]
    exact { h with sendThre := fun _ _ => rfl }

/-- A fault of the host keeps the invariant: it is no device fault (R171, R172). -/
theorem BlockInv.raise {r : FaultReason} (h : BlockInv d s) (hr : isDeviceFault r = false) : BlockInv d (s.raise r) :=
  { h with faultKind := fun _ hq => Option.some.inj hq ▸ hr }

/-- RESET in Idle starts its sequence with `rest` empty and DLAB clear (R121). -/
theorem BlockInv.startReset (h : BlockInv d s) (hp : s.phase = .idle) : BlockInv d (s.goto .rst0) where
  __ := h
  window := nofun
  closed hc _ := h.closed hc (by rw [hp]; rfl)
  cacheUnwritten _ := rfl
  sendReady := nofun
  sendThre := nofun
  restEmpty _ := h.restEmpty (by rw [hp]; rfl)

/-- Bytes to send begin in Poll, in a state whose DLAB is clear and whose cache is written (R142, R145). -/
theorem BlockInv.startPoll (b : Byte) (bs : List Byte) (h : BlockInv d s) (hp : s.phase.inReset = false) :
    BlockInv d { s with cur := b, rest := bs, phase := .poll } where
  __ := h
  window := nofun
  closed _ _ := h.scanDlab_clear hp
  cacheUnwritten hc := absurd hc (h.cacheWritten hp)
  sendReady := nofun
  sendThre := nofun
  restEmpty := nofun

/-- A host command keeps the invariant (R180, R181). -/
theorem BlockInv.of_exec_command {i : Instr} {t : State} (h : BlockInv d s) (hl : i.level = .command)
    (hx : exec i s = .next t) : BlockInv d t := by
  obtain ⟨-, ⟨-, rfl⟩ | ⟨hp, -, rfl⟩ | ⟨-, -, rfl⟩ | ⟨hp, -, b, bs, rfl⟩⟩ := exec_command_cases hl hx
  · exact h.raise rfl
  · exact h.startReset hp
  · exact h
  · exact h.startPoll b bs (by rw [hp]; rfl)

/-- The host's step keeps the invariant (R177, R180). -/
theorem BlockInv.of_hostStep {t : State} (h : BlockInv d s) (hs : hostStep s = .next t) : BlockInv d t := by
  obtain ⟨-, rfl⟩ | ⟨-, -, rfl⟩ | ⟨-, op, rfl⟩ | ⟨-, i, rest, -, hl, hx⟩ := hostStep_cases hs
  · exact h
  · exact h.raise rfl
  · exact (h.deliver 1).raise rfl
  · exact (h.deliver _).of_exec_command hl hx

/-! ## The micro-steps of RESET -/

/-- In Rst3 the cache may take `LCR_FORMAT` before the LCR does: the window is still open (R125). -/
theorem BlockInv.setCache (h : BlockInv d s) (hp : s.phase.inWindow = true) :
    BlockInv d (s.setCache s.cfg.lcrFormat) where
  __ := h
  closed _ hc := by simp [hp] at hc
  cacheUnwritten := nofun
  cacheFormat _ hv := (Option.some.inj hv).symm

/-- An LCR write opens or closes the window as the next phase wants it (R122, R125). -/
theorem BlockInv.lcrWrite {p : Phase} {v : Byte} (h : BlockInv d s) (hs : inTransmit s.phase = false)
    (hp : inTransmit p = false) (hv : dlabOf v = p.inWindow) (hc : s.lcr = none → p.inReset = true) :
    BlockInv d ((s.portWrite Config.offLcr v).goto p) := by
  have hsend : p ≠ .send := by rintro rfl; simp [inTransmit] at hp
  have hlcr (hd : s.cfg.device ≠ .absent) : (s.stored { s.dev with lcr := v }).lcr = v := by
    rw [State.stored_present _ hd]
  rw [portWrite_lcr]
  exact
    { config := h.config
      lastWrite := fun hd w hw => by simpa [hlcr hd] using hw
      scanDlab := fun hd => by simp [State.dlab, hlcr hd]
      scanOk := by simpa using h.scanOk
      window := fun hw => by simpa [hv] using hw
      closed := fun _ hw => by simpa [hv] using hw
      cacheUnwritten := hc
      cacheFormat := h.cacheFormat
      sendReady := fun hq => absurd hq hsend
      sendThre := fun hq => absurd hq hsend
      restEmpty := fun _ => h.restEmpty hs
      faultKind := h.faultKind }

/-- A write of another register that the device takes without a fault and without touching its LCR, in order, keeps the
invariant for a next phase on the same side of the window (R123, R124, R144). -/
theorem BlockInv.otherWrite {p : Phase} {off : Offset} {v : Byte} (h : BlockInv d s)
    (hoff : portAddr off ≠ portAddr Config.offLcr)
    (hdev : (s.portWrite off v).fault = s.fault ∧ (s.portWrite off v).dev.lcr = s.dev.lcr)
    (hok : (scanTrace d s.trace).dlab = true ∨ (scanTrace d s.trace).armed = true)
    (hw : p.inWindow = s.phase.inWindow) (hr : p.inReset = s.phase.inReset) (hsend : p ≠ .send)
    (hrest : inTransmit p = false → s.rest = []) :
    BlockInv d ((s.portWrite off v).goto p) where
  config := by simpa using h.config
  lastWrite := by simpa [lastLcrWrite_append_other _ hoff, hdev.2] using h.lastWrite
  scanDlab := by simpa [scanEvent_dlab hoff, State.dlab, hdev.2] using h.scanDlab
  scanOk := by simpa [scanEvent_ok hoff v hok] using h.scanOk
  window := by simpa [scanEvent_dlab hoff, hw] using h.window
  closed := by simpa [scanEvent_dlab hoff, hw] using h.closed
  cacheUnwritten := by simpa [hr] using h.cacheUnwritten
  cacheFormat := by simpa using h.cacheFormat
  sendReady hq := absurd hq hsend
  sendThre hq := absurd hq hsend
  restEmpty := by simpa using hrest
  faultKind := by simpa [hdev.1] using h.faultKind

/-- With DLAB set where there is a device, a divisor write raises no fault and leaves the LCR (R102, R103, R173). -/
theorem divisorWrite_dev {off : Offset} (v : Byte) (hoff : off = Config.offDll ∨ off = Config.offDlm)
    (hd : s.cfg.device ≠ .absent → s.dlab = true) :
    (s.portWrite off v).fault = s.fault ∧ (s.portWrite off v).dev.lcr = s.dev.lcr := by
  by_cases ha : s.cfg.device = .absent
  · simp [portWrite_absent off v s ha]
  · obtain rfl | rfl := hoff
    · simp [portWrite_dll v s (hd ha), ha]
    · simp [portWrite_dlm v s (hd ha), ha]

/-- With DLAB clear where there is a device, and THRE set where it has one, a data write raises no fault and leaves the
LCR (R104, R173). -/
theorem dataWrite_dev (v : Byte) (hd : s.cfg.device ≠ .absent → s.dlab = false)
    (ht : s.cfg.device = .reference → s.dev.thre = true) :
    (s.portWrite Config.offData v).fault = s.fault ∧ (s.portWrite Config.offData v).dev.lcr = s.dev.lcr := by
  cases hc : s.cfg.device with
  | absent => simp [portWrite_absent _ v s hc]
  | oracle => simp [portWrite_thr v s (hd (by simp [hc])), State.acceptByte, hc]
  | reference => simp [portWrite_thr v s (hd (by simp [hc])), State.acceptByte, hc, ht hc]

/-- A divisor write inside the window keeps the invariant (R123, R124). -/
theorem BlockInv.of_divisorWrite {p : Phase} {off : Offset} {v : Byte} {i : Instr} {t : State} (h : BlockInv d s)
    (hf : s.fault = none) (hoff : off = Config.offDll ∨ off = Config.offDlm)
    (hi : exec i s = transact (State.portWrite off v) s) (hs : s.phase.inWindow = true) (hp : p.inWindow = true)
    (hx : issue i (State.goto p) s = .next t) : BlockInv d t := by
  obtain ⟨hsr, hst⟩ := inReset_of_inWindow hs
  obtain ⟨hpr, -⟩ := inReset_of_inWindow hp
  have hdlab := h.window hs
  have hdev := divisorWrite_dev v hoff fun hd => (h.scanDlab hd).symm.trans hdlab
  obtain rfl := issue_next_of_ok hx hi (hdev.1.trans hf)
  refine h.otherWrite ?_ hdev (.inl hdlab) (hp.trans hs.symm) (hpr.trans hsr.symm) ?_ fun _ => h.restEmpty hst
  · obtain rfl | rfl := hoff <;> decide
  · rintro rfl
    simp [Phase.inWindow] at hp

theorem BlockInv.of_microRst0 {t : State} (h : BlockInv d s) (hf : s.fault = none) (hp : s.phase = .rst0)
    (hx : microRst0 s = .next t) : BlockInv d t := by
  obtain rfl := issue_next_of_ok hx rfl (by rw [portWrite_lcr]; exact hf)
  exact h.lcrWrite (by rw [hp]; rfl) rfl h.config.2 fun _ => rfl

/-- Rst3 writes the cache, and then the LCR from it (R125). -/
theorem BlockInv.of_microRst3 {t : State} (h : BlockInv d s) (hf : s.fault = none) (hp : s.phase = .rst3)
    (hx : microRst3 s = .next t) : BlockInv d t := by
  obtain rfl := issue_next_of_ok (microRst3_eq s ▸ hx) rfl (by rw [portWrite_lcr]; exact hf)
  exact (h.setCache (by rw [hp]; rfl)).lcrWrite (by rw [State.setCache_phase, hp]; rfl) rfl h.lcrFormat_clear nofun

/-! ## The micro-steps of a transmit command -/

/-- An LSR read in a transmit command may be followed by Send if its value is ready, which in the reference device
model shows THRE set (R143, R195). -/
theorem BlockInv.lsrRead {p : Phase} (h : BlockInv d s) (hs : s.phase.inReset = false) (hp : inTransmit p = true)
    (hready : p = .send → ready (s.readValue Config.offLsr) = true) :
    BlockInv d ((s.portRead Config.offLsr).goto p) := by
  obtain ⟨-, hpw⟩ := outside_of_inTransmit hp
  rw [portRead_lsr]
  exact
    { config := h.config
      lastWrite := by simpa using h.lastWrite
      scanDlab := fun hd => by simpa [State.dlab] using h.scanDlab hd
      scanOk := by simpa using h.scanOk
      window := by simp [hpw]
      closed := fun _ _ => by simpa using h.scanDlab_clear hs
      cacheUnwritten := fun hc => absurd hc (h.cacheWritten hs)
      cacheFormat := h.cacheFormat
      sendReady := fun hq => by simpa using hready hq
      sendThre := fun hq hd => (ready_readValue_reference s hd).symm.trans (hready hq)
      restEmpty := by simp [hp]
      faultKind := h.faultKind }

/-- A poll goes on to Send exactly after a ready read (R143). -/
theorem BlockInv.of_microPoll {t : State} (h : BlockInv d s) (hf : s.fault = none) (hp : s.phase = .poll)
    (hx : microPoll s = .next t) : BlockInv d t := by
  obtain rfl := issue_next_of_ok hx rfl (by rw [portRead_lsr]; exact hf)
  refine h.lsrRead (by rw [hp]; rfl) ?_ ?_ <;> split_ifs with hr
  · rfl
  · rfl
  · exact fun _ => hr
  · nofun

/-- The end of a byte, seen from Poll: the next byte polls, and the last one leaves `rest` empty (R144). -/
theorem BlockInv.advance (h : BlockInv d s) (hp : s.phase = .poll) : BlockInv d s.advance := by
  have hreset : s.phase.inReset = false := by rw [hp]; rfl
  cases hr : s.rest with
  | nil =>
    have ha : s.advance = { s with phase := .idle, cur := Config.freeCur s.draws, draws := s.draws + 1 } := by
      simp [State.advance, hr]
    rw [ha]
    exact
      { h with
        window := nofun
        closed := fun _ _ => h.scanDlab_clear hreset
        cacheUnwritten := fun hc => absurd hc (h.cacheWritten hreset)
        sendReady := nofun
        sendThre := nofun
        restEmpty := fun _ => hr }
  | cons b bs =>
    rw [advance_more hr]
    exact h.startPoll b bs hreset

/-- Send writes its byte straight after a ready read, with DLAB clear (R144, R195). -/
theorem BlockInv.of_microSend {t : State} (h : BlockInv d s) (hf : s.fault = none) (hp : s.phase = .send)
    (hx : microSend s = .next t) : BlockInv d t := by
  have hclear := h.scanDlab_clear (by rw [hp]; rfl)
  have hdev := dataWrite_dev s.cur (fun hd => (h.scanDlab hd).symm.trans hclear) (h.sendThre hp)
  obtain rfl := issue_next_of_ok hx rfl (hdev.1.trans hf)
  have hpoll : BlockInv d ((s.portWrite Config.offData s.cur).goto .poll) :=
    h.otherWrite (by decide) hdev (.inr (h.sendReady hp)) (by rw [hp]; rfl) (by rw [hp]; rfl) (by decide) nofun
  exact hpoll.advance rfl

/-! ## The step -/

/-- Every micro-step keeps the invariant (R22, R128). -/
theorem BlockInv.of_sequencerStep {t : State} (h : BlockInv d s) (hf : s.fault = none)
    (hs : sequencerStep s = .next t) : BlockInv d t := by
  unfold sequencerStep at hs
  split at hs
  · exact h.of_microRst0 hf ‹_› hs
  · exact h.of_divisorWrite hf (.inl rfl) rfl (by simp [*, Phase.inWindow]) rfl hs
  · exact h.of_divisorWrite hf (.inr rfl) rfl (by simp [*, Phase.inWindow]) rfl hs
  · exact h.of_microRst3 hf ‹_› hs
  · cases hs; exact h
  · exact h.of_microPoll hf ‹_› hs
  · exact h.of_microSend hf ‹_› hs

end
end Sys2Proof.Safety
end

section
/-!
PROOFS. The statements of the scope (00_scope.md): the block's invariant, the trace of a step, the host's step and the
launch.
-/

namespace Sys2Proof.Safety

open Sys2Proof.Machine

/-- Settles O50: each agent's step keeps the invariant. -/
theorem stepKeepsBlockInv : Obligations.StepKeepsBlockInv := by
  intro d s t h hst
  obtain ⟨hf, ha⟩ := step_next hst
  cases hn : s.nextAgent <;> rw [hn] at ha
  case host => exact h.takeTurn.of_hostStep ha
  case sequencer => exact h.takeTurn.of_sequencerStep hf ha
  case device => cases ha; exact h.takeTurn.drain

/-- Settles O47: only the sequencer's micro-steps issue a transaction, each of them one. -/
theorem atMostOneTransactionPerStep : Obligations.AtMostOneTransactionPerStep := by
  intro s t hst
  obtain ⟨-, ha⟩ := step_next hst
  cases hn : s.nextAgent <;> rw [hn] at ha
  case host =>
    have ht : t.trace = s.trace := hostStep_trace (s := s.takeTurn) ha
    exact ⟨⟨[], by simp, by simpa using ht⟩, fun _ => ht⟩
  case sequencer =>
    refine ⟨?_, fun hne => absurd rfl hne⟩
    obtain ht | ⟨e, ht⟩ := sequencerStep_trace ha
    · exact ⟨[], by simp, by simpa using ht⟩
    · exact ⟨[e], by simp, ht⟩
  case device =>
    cases ha
    exact ⟨⟨[], by simp, by simp⟩, fun _ => by simp⟩

/-- Settles O18: the decoder reads the encoded command back and leaves the bytes after it. -/
theorem hostStepRunsTheCommand : Obligations.HostStepRunsTheCommand := by
  intro s i tail hf ha hp hw hl hpend
  have hd := decodeCommand_encode tail hw hl
  have hne : encode i ++ tail ≠ [] := by
    intro hnil
    rw [hnil] at hd
    simp [decodeCommand] at hd
  have hstep : step s = hostStep s.takeTurn := by simp [step, stepNext, hf, ha, agentStep]
  have hpend' : s.takeTurn.pending = encode i ++ tail := hpend
  simp [hstep, hostStep, hpend', hne, hp, hd, State.deliver]

/-- Settles O38: the launch's check is R8, and an admitted launch is the table of R40. -/
theorem launchState : Obligations.LaunchState := by
  intro c d
  refine ⟨fun hbad => ?_, fun hfmt hdiv => ?_⟩
  · have hc : ¬ c.wellFormed = true := by
      rw [Config.wellFormed_iff]
      rintro ⟨hfmt, hdiv⟩
      obtain h7 | h0 := hbad
      · rw [hfmt] at h7; cases h7
      · exact hdiv h0
    exact if_neg hc
  · have hc : c.wellFormed = true := (Config.wellFormed_iff c).mpr ⟨hfmt, hdiv⟩
    exact ⟨_, if_pos hc, rfl, rfl, rfl, rfl, rfl, rfl, rfl, rfl⟩

end Sys2Proof.Safety
end

section
/-!
PROOFS. One turn of the sequencer: what a micro-step does when its transaction raises no fault, what it does when the
device faults, and what each agent's step can change: the rules the statements of the state (10_state.md) are settled
from.
-/

namespace Sys2Proof.Machine

/-! ## Bits, ports and transactions -/

/-- An LSR value of the reference device model has THRE in bit 5 and the draw in the other bits (R43, R105). -/
theorem getLsbD_withThre (t : Bool) (v : Byte) (k : Nat) :
    (withThre t v).getLsbD k = if k = 5 then t else v.getLsbD k := by
  by_cases hk : k < 8
  · revert v; cases t <;> interval_cases k <;> decide
  · have hk8 : 8 ≤ k := by omega
    have hk5 : k ≠ 5 := by omega
    simp [BitVec.getLsbD_of_ge, hk8, hk5]

/-- A port of the register block is its offset's (R51, R52). -/
theorem offsetOf_portAddr (off : Offset) : offsetOf (portAddr off) = some off := by
  revert off; decide

/-- The register a port write's event reaches is the one its select key decodes to (R76, R77). -/
theorem select_write (dlab : Bool) (off : Offset) (v : Byte) :
    (Event.w (portAddr off) v).select dlab = decodeSelect (selectKey dlab true off) := by
  simp [Event.select, offsetOf_portAddr]

/-- WR_THR and WR_DLL write the same port; DLAB tells them apart (R102, R104). -/
theorem exec_dataWrite {i : Instr} {v : Byte} (hi : i = .wrThr v ∨ i = .wrDll v) (s : State) :
    exec i s = transact (State.portWrite Config.offData v) s := by
  obtain rfl | rfl := hi <;> rfl

/-- What a launch answers (R8, R40). -/
theorem launch_next {c : Config} {d : Uart} {s : State} (h : State.launch c d = .next s) :
    c.wellFormed = true ∧ s = { State.reset with cfg := c, dev := { d with wire := [] } } := by
  unfold State.launch at h
  split_ifs at h with hc
  exact ⟨hc, by simpa using h.symm⟩

/-! ## Port writes and the drain step -/

@[simp] theorem portWrite_cur (off : Offset) (v : Byte) (s : State) : (s.portWrite off v).cur = s.cur := by
  obtain ⟨d, f, h⟩ := portWrite_frame off v s
  rw [h]

@[simp] theorem portWrite_hostStream (off : Offset) (v : Byte) (s : State) :
    (s.portWrite off v).hostStream = s.hostStream := by
  obtain ⟨d, f, h⟩ := portWrite_frame off v s
  rw [h]

@[simp] theorem portWrite_hostPos (off : Offset) (v : Byte) (s : State) :
    (s.portWrite off v).hostPos = s.hostPos := by
  obtain ⟨d, f, h⟩ := portWrite_frame off v s
  rw [h]

@[simp] theorem portWrite_lsrIn (off : Offset) (v : Byte) (s : State) : (s.portWrite off v).lsrIn = s.lsrIn := by
  obtain ⟨d, f, h⟩ := portWrite_frame off v s
  rw [h]

@[simp] theorem portWrite_sched (off : Offset) (v : Byte) (s : State) : (s.portWrite off v).sched = s.sched := by
  obtain ⟨d, f, h⟩ := portWrite_frame off v s
  rw [h]

/-- A port write raises no fault, or the fault and the event are all it leaves (R106, R172). -/
theorem portWrite_fault_cases (off : Offset) (v : Byte) (s : State) :
    (s.portWrite off v).fault = s.fault ∨
      ∃ r, s.portWrite off v = (s.record (.w (portAddr off) v)).raise r := by
  unfold State.portWrite State.deviceWrite
  split
  · exact .inl rfl
  · exact .inl rfl
  · exact .inl rfl
  · unfold State.acceptByte
    split
    · exact .inl rfl
    · exact .inl rfl
    · split
      · exact .inl rfl
      · exact .inr ⟨_, rfl⟩
  · exact .inl rfl
  · unfold State.unmodelledAccess
    split
    · exact .inl rfl
    · exact .inl rfl
    · exact .inr ⟨_, rfl⟩

/-- The fault register is sticky over a port write (R24). -/
theorem fault_none_of_portWrite {off : Offset} {v : Byte} {s : State} (h : (s.portWrite off v).fault = none) :
    s.fault = none := by
  obtain hf | ⟨r, hr⟩ := portWrite_fault_cases off v s
  · exact hf ▸ h
  · simp [hr] at h

/-- An LCR write raises no fault (R101). -/
@[simp] theorem portWrite_lcr_fault (v : Byte) (s : State) : (s.portWrite Config.offLcr v).fault = s.fault := by
  rw [portWrite_lcr]

/-- An LSR read raises no fault (R105). -/
@[simp] theorem portRead_lsr_fault (s : State) : (s.portRead Config.offLsr).fault = s.fault := by
  rw [portRead_lsr]; rfl

/-- In the oracle model the data register takes a byte (log 13). -/
theorem acceptByte_oracle (v : Byte) {s : State} (h : s.cfg.device = .oracle) :
    s.acceptByte v = { s with dev := { s.dev with thr := v } } := by
  simp [State.acceptByte, h]

/-- Without a device a byte is dropped (R173). -/
theorem acceptByte_absent (v : Byte) {s : State} (h : s.cfg.device = .absent) : s.acceptByte v = s := by
  simp [State.acceptByte, h]

/-- In the reference device model a byte that finds THRE set goes to the wire (R43, R104). -/
theorem acceptByte_reference (v : Byte) {s : State} (h : s.cfg.device = .reference) (ht : s.dev.thre = true) :
    s.acceptByte v = { s with dev := { s.dev with thr := v, thre := false, wire := s.dev.wire ++ [v] } } := by
  simp [State.acceptByte, h, ht]

/-- In the reference device model the drain step leaves THRE set (R43). -/
theorem drain_reference {s : State} (h : s.cfg.device = .reference) :
    s.drain = { s with dev := { s.dev with thre := true } } := by
  cases ht : s.dev.thre
  · simp [State.drain, State.drainEnabled, h, ht]
  · have hset : ({ s.dev with thre := true } : Uart) = s.dev := by rw [← ht]
    simp [State.drain, State.drainEnabled, ht, hset]

/-- Outside the reference device model the drain step is not enabled (R43). -/
theorem drain_other {s : State} (h : s.cfg.device ≠ .reference) : s.drain = s := by
  simp [State.drain, State.drainEnabled, h]

/-! ## The micro-step of a phase -/

/-- The events a micro-step appends: its one transaction, none in Idle (R122 to R125, R143, R144, R151). -/
def State.microEvents (s : State) : List Event :=
  match s.phase with
  | .rst0 => [.w (portAddr Config.offLcr) s.cfg.dlabWriteValue]
  | .rst1 => [.w (portAddr Config.offDll) (divisorLow s.cfg)]
  | .rst2 => [.w (portAddr Config.offDlm) (divisorHigh s.cfg)]
  | .rst3 => [.w (portAddr Config.offLcr) s.cfg.lcrFormat]
  | .idle => []
  | .poll => [.r (portAddr Config.offLsr) (s.readValue Config.offLsr)]
  | .send => [.w (portAddr Config.offData) s.cur]

/-- The state after a micro-step whose transaction raises no fault: the port access and then the update of the
sequencer's registers (R122 to R125, R143, R144, R151). -/
def State.microNext (s : State) : State :=
  match s.phase with
  | .rst0 => (s.portWrite Config.offLcr s.cfg.dlabWriteValue).goto .rst1
  | .rst1 => (s.portWrite Config.offDll (divisorLow s.cfg)).goto .rst2
  | .rst2 => (s.portWrite Config.offDlm (divisorHigh s.cfg)).goto .rst3
  | .rst3 => ((s.setCache s.cfg.lcrFormat).portWrite Config.offLcr s.cfg.lcrFormat).goto .idle
  | .idle => s
  | .poll => (s.portRead Config.offLsr).goto (if ready (s.readValue Config.offLsr) then .send else .poll)
  | .send => (s.portWrite Config.offData s.cur).advance

/-- A micro-step that writes a port: no fault and the update of the registers, or a fault and no update (R100, R172). -/
theorem issue_write_cases {i : Instr} {k : State → State} {s t : State} {off : Offset} {v : Byte}
    (hi : exec i s = transact (State.portWrite off v) s) (h : issue i k s = .next t) :
    t = k (s.portWrite off v) ∨ ∃ r, t = (s.record (.w (portAddr off) v)).raise r := by
  obtain ⟨u, hu, rfl⟩ := issue_next h
  obtain ⟨hf, rfl⟩ := transact_next (hi ▸ hu)
  split_ifs with hok
  · exact .inl rfl
  · exact .inr ((portWrite_fault_cases off v s).resolve_left fun he => hok (he.trans hf))

/-- A micro-step whose transaction leaves the fault register ends in its update of the registers. -/
theorem issue_next_of_keeps {i : Instr} {k f : State → State} {s t : State} (hi : exec i s = transact f s)
    (hk : (f s).fault = s.fault) (h : issue i k s = .next t) : t = k (f s) := by
  obtain ⟨u, hu, -⟩ := issue_next h
  exact issue_next_of_ok h hi (hk.trans (transact_next (hi ▸ hu)).1)

/-- Everything a sequencer step can do: the whole micro-step, or its event and a fault of the device (R100, R172). -/
theorem sequencerStep_cases {s t : State} (h : sequencerStep s = .next t) :
    t = s.microNext ∨ ∃ e r, s.microEvents = [e] ∧ t = (s.record e).raise r := by
  cases hp : s.phase <;> simp only [sequencerStep, State.microNext, State.microEvents, hp] at h ⊢
  case rst3 => exact .inl (issue_next_of_keeps (s := s.setCache s.cfg.lcrFormat) rfl (portWrite_lcr_fault _ _) h)
  case idle => cases h; exact .inl rfl
  case poll => exact .inl (issue_next_of_keeps rfl (portRead_lsr_fault s) h)
  case rst0 | rst1 | rst2 | send => exact (issue_write_cases rfl h).imp_right fun ⟨r, hr⟩ => ⟨_, r, rfl, hr⟩

/-- A micro-step that writes a port and raises no fault. -/
theorem issue_write_ok {i : Instr} {k : State → State} {s : State} {off : Offset} {v : Byte}
    (hi : exec i s = transact (State.portWrite off v) s) (hf : (s.portWrite off v).fault = none) :
    issue i k s = .next (k (s.portWrite off v)) :=
  issue_ok (hi.trans (transact_ok (fault_none_of_portWrite hf))) hf

/-- The end of a byte leaves the fault register (R144). -/
theorem advance_fault (s : State) : s.advance.fault = s.fault := (advance_frame s).2.1

/-- The sequencer's step is the whole micro-step where that raises no fault (R22). -/
theorem sequencerStep_ok {s : State} (h : s.microNext.fault = none) : sequencerStep s = .next s.microNext := by
  cases hp : s.phase <;> simp only [sequencerStep, State.microNext, hp] at h ⊢
  case rst0 | rst1 | rst2 | rst3 => exact issue_write_ok rfl h
  case poll =>
    have hu : (s.portRead Config.offLsr).fault = none := h
    exact issue_ok (transact_ok ((portRead_lsr_fault s).symm.trans hu)) hu
  case send => exact issue_write_ok rfl ((advance_fault _).symm.trans h)

/-! ## What a micro-step leaves as it is -/

@[simp] theorem microNext_cfg (s : State) : s.microNext.cfg = s.cfg := by
  cases hp : s.phase <;> simp [State.microNext, hp, advance_frame, portRead_lsr]

@[simp] theorem microNext_hostStream (s : State) : s.microNext.hostStream = s.hostStream := by
  cases hp : s.phase <;> simp [State.microNext, hp, advance_frame, portRead_lsr]

@[simp] theorem microNext_sched (s : State) : s.microNext.sched = s.sched := by
  cases hp : s.phase <;> simp [State.microNext, hp, advance_frame, portRead_lsr]

/-- A micro-step appends its one event (R27). -/
@[simp] theorem microNext_trace (s : State) : s.microNext.trace = s.trace ++ s.microEvents := by
  cases hp : s.phase <;> simp [State.microNext, State.microEvents, hp, advance_frame, portRead_lsr]

/-- Only Rst3 writes the cache (R21, R125). -/
theorem microNext_cache (s : State) :
    s.microNext.lcr = s.lcr ∨ (s.phase = .rst3 ∧ s.microNext.lcr = some s.cfg.lcrFormat) := by
  cases hp : s.phase <;> simp [State.microNext, hp, advance_frame, portRead_lsr]

/-- The successor pairs of the micro-steps (R22). -/
theorem microNext_phase (s : State) :
    s.microNext.phase = s.phase ∨
      (s.phase, s.microNext.phase) ∈ [(Phase.rst0, Phase.rst1), (.rst1, .rst2), (.rst2, .rst3), (.rst3, .idle),
        (.poll, .send), (.send, .idle), (.send, .poll)] := by
  cases hp : s.phase
  case poll => cases hr : ready (s.readValue Config.offLsr) <;> simp [State.microNext, hp, hr]
  case send => cases hr : s.rest <;> simp [State.microNext, State.advance, hp, hr]
  case rst0 | rst1 | rst2 | rst3 | idle => simp [State.microNext, hp]

/-- The fault register is sticky over a micro-step (R24). -/
theorem fault_none_of_microNext {s : State} (h : s.microNext.fault = none) : s.fault = none := by
  cases hp : s.phase <;> simp only [State.microNext, hp, advance_fault, State.goto_fault] at h
  case idle => exact h
  case poll => exact (portRead_lsr_fault s).symm.trans h
  case rst3 => exact fault_none_of_portWrite (s := s.setCache s.cfg.lcrFormat) h
  case rst0 | rst1 | rst2 | send => exact fault_none_of_portWrite h

/-- In the oracle model, and without a device, a micro-step raises no fault (R57, R173). -/
theorem microNext_fault_oracle {s : State} (h : s.cfg.device ≠ .reference) : s.microNext.fault = s.fault := by
  cases hp : s.phase <;> simp only [State.microNext, hp, advance_fault, State.goto_fault]
  case poll => exact portRead_lsr_fault s
  case rst3 => exact portWrite_fault_oracle _ _ (s.setCache s.cfg.lcrFormat) h
  case rst0 | rst1 | rst2 | send => exact portWrite_fault_oracle _ _ s h

/-! ## What each agent's step can change -/

/-- A step is the host's, the sequencer's or the drain step, as the turn says (R6, R11). -/
theorem step_cases {s t : State} (h : step s = .next t) :
    (s.nextAgent = .host ∧ hostStep s.takeTurn = .next t) ∨
      (s.nextAgent = .sequencer ∧ sequencerStep s.takeTurn = .next t) ∨
      (s.nextAgent = .device ∧ t = s.takeTurn.drain) := by
  obtain ⟨-, ha⟩ := step_next h
  cases hn : s.nextAgent <;> rw [hn] at ha
  case host => exact .inl ⟨rfl, ha⟩
  case sequencer => exact .inr (.inl ⟨rfl, ha⟩)
  case device => cases ha; exact .inr (.inr ⟨rfl, rfl⟩)

/-- When the sequencer moves in a block that is not faulted, the step is the micro-step of the phase (R22). -/
theorem step_sequencer {s : State} (hf : s.fault = none) (ha : s.nextAgent = .sequencer) :
    step s = sequencerStep s.takeTurn := by
  simp [step, stepNext, hf, ha, agentStep]

/-- When the device moves in a block that is not faulted, the step is the drain step (R43). -/
theorem step_device {s : State} (hf : s.fault = none) (ha : s.nextAgent = .device) :
    step s = .next s.takeTurn.drain := by
  simp [step, stepNext, hf, ha, agentStep, deviceStep]

/-- Everything the host's step can change: the stream's position and the fault register, and in Idle the phase, with the
bytes to send for a transmit command (R121, R142, R145, R181). -/
theorem hostStep_changes {s t : State} (h : hostStep s = .next t) :
    ∃ n f, t = { s with hostPos := n, fault := f } ∨
      (s.phase = .idle ∧ (t = { s with hostPos := n, fault := f, phase := .rst0 } ∨
        ∃ b bs, t = { s with hostPos := n, fault := f, cur := b, rest := bs, phase := .poll })) := by
  obtain ⟨-, rfl⟩ | ⟨-, -, rfl⟩ | ⟨-, op, rfl⟩ | ⟨hp, i, rest, -, hl, hx⟩ := hostStep_cases h
  · exact ⟨_, _, .inl rfl⟩
  · exact ⟨_, _, .inl rfl⟩
  · exact ⟨_, _, .inl rfl⟩
  · obtain ⟨-, ⟨-, rfl⟩ | ⟨-, -, rfl⟩ | ⟨-, -, rfl⟩ | ⟨-, -, b, bs, rfl⟩⟩ := exec_command_cases hl hx
    · exact ⟨_, _, .inl rfl⟩
    · exact ⟨_, _, .inr ⟨hp, .inl rfl⟩⟩
    · exact ⟨_, _, .inl rfl⟩
    · exact ⟨_, _, .inr ⟨hp, .inr ⟨b, bs, rfl⟩⟩⟩

/-- No host command reaches the device (R58). -/
theorem hostStep_dev {s t : State} (h : hostStep s = .next t) : t.dev = s.dev := by
  obtain ⟨n, f, rfl | ⟨-, rfl | ⟨b, bs, rfl⟩⟩⟩ := hostStep_changes h <;> rfl

/-- The drain step changes no register but THRE (R43). -/
theorem drain_frame (s : State) :
    s.drain.cfg = s.cfg ∧ s.drain.phase = s.phase ∧ s.drain.lcr = s.lcr ∧ s.drain.hostStream = s.hostStream ∧
      s.drain.sched = s.sched := by
  obtain h | ⟨-, -, h⟩ := drain_cases s <;> rw [h] <;> simp

/-- The sequencer's step appends the events of its phase, whether or not the device faults (R27, R172). -/
theorem sequencerStep_events {s t : State} (h : sequencerStep s = .next t) : t.trace = s.trace ++ s.microEvents := by
  obtain rfl | ⟨e, r, he, rfl⟩ := sequencerStep_cases h
  · exact microNext_trace s
  · simp [he]

/-- The events of a step are those of the sequencer's micro-step; the host and the device append none (R11, R58). -/
theorem step_events {s t : State} (h : step s = .next t) :
    t.trace = s.trace ++ if s.nextAgent = .sequencer then s.takeTurn.microEvents else [] := by
  obtain ⟨hn, ha⟩ | ⟨hn, ha⟩ | ⟨hn, rfl⟩ := step_cases h
  · simpa [hn] using hostStep_trace ha
  · simpa [hn] using sequencerStep_events ha
  · simp [hn]

/-- No step writes the configuration or the host's stream (R42; log 3). -/
theorem step_config {s t : State} (h : step s = .next t) : t.cfg = s.cfg ∧ t.hostStream = s.hostStream := by
  obtain ⟨-, ha⟩ | ⟨-, ha⟩ | ⟨-, rfl⟩ := step_cases h
  · obtain ⟨n, f, rfl | ⟨-, rfl | ⟨b, bs, rfl⟩⟩⟩ := hostStep_changes ha <;> exact ⟨rfl, rfl⟩
  · obtain rfl | ⟨e, r, -, rfl⟩ := sequencerStep_cases ha <;> simp
  · simp [drain_frame]

/-! ## Runs of the sequencer's turns -/

/-- The state after a turn of the sequencer whose micro-step raises no fault. -/
def State.sequencerTurn (s : State) : State := s.takeTurn.microNext

/-- A step of the sequencer that raises no fault. -/
theorem step_sequencerTurn {s : State} (ha : s.nextAgent = .sequencer) (h : s.sequencerTurn.fault = none) :
    step s = .next s.sequencerTurn :=
  (step_sequencer (s := s) (fault_none_of_microNext (s := s.takeTurn) h) ha).trans (sequencerStep_ok h)

/-- The fault register is sticky over turns of the sequencer (R24). -/
theorem fault_none_of_sequencerTurns (k : Nat) {s : State} (h : (State.sequencerTurn^[k] s).fault = none) :
    s.fault = none := by
  induction k generalizing s with
  | zero => exact h
  | succ k ih => exact fault_none_of_microNext (s := s.takeTurn) (ih h)

end Sys2Proof.Machine
end

section
/-!
PROOFS. Runs of the sequencer's turns, the RESET sequence, what a reading of the trace knows of DLAB and of ready reads,
the transmitter, and the fairness of the drain step.
-/

namespace Sys2Proof.Safety

open Sys2Proof.Machine

/-! ## Runs of the sequencer's turns -/

/-- `k` turns of the sequencer that raise no fault are a run of `k` steps. -/
theorem runSteps_sequencerTurns (k : Nat) {s : State} (hs : SequencerTurns k s)
    (hf : (State.sequencerTurn^[k] s).fault = none) : runSteps k s = .next (State.sequencerTurn^[k] s) := by
  induction k generalizing s with
  | zero => rfl
  | succ k ih =>
    obtain ⟨hn, -, hnext⟩ := sequencerTurns_succ hs
    rw [Function.iterate_succ_apply] at hf ⊢
    rw [runSteps_of_step k (step_sequencerTurn hn (fault_none_of_sequencerTurns k hf))]
    exact ih (hnext _ (by simp [State.sequencerTurn])) hf

/-- Rst1 and Rst2 raise no fault and leave the LCR where DLAB is set, if there is a device (R123, R124). -/
theorem microNext_divisor {s : State} (hp : s.phase = .rst1 ∨ s.phase = .rst2)
    (hd : s.cfg.device ≠ .absent → s.dlab = true) :
    s.microNext.fault = s.fault ∧ s.microNext.dev.lcr = s.dev.lcr := by
  obtain hp | hp := hp
  · simpa [State.microNext, hp] using divisorWrite_dev _ (.inl rfl) hd
  · simpa [State.microNext, hp] using divisorWrite_dev _ (.inr rfl) hd

/-- A turn in Rst1 or Rst2 raises no fault and leaves DLAB set (R38, R123, R124). -/
theorem divisorTurn {s : State} (hp : s.phase = .rst1 ∨ s.phase = .rst2) (hd : s.cfg.device ≠ .absent → s.dlab = true) :
    s.sequencerTurn.fault = s.fault ∧ (s.sequencerTurn.cfg.device ≠ .absent → s.sequencerTurn.dlab = true) := by
  obtain ⟨hf, hl⟩ := microNext_divisor (s := s.takeTurn) hp hd
  exact ⟨hf, fun hne => (congrArg dlabOf hl).trans (hd (by simpa [State.sequencerTurn] using hne))⟩

/-- Once the first write has set DLAB, where there is a device to hold it, the four turns of the RESET sequence raise no
fault (R83). -/
theorem resetTurns_fault {s : State} (hp : s.phase = .rst0) (hf : s.fault = none) (hw : opensWindow s.cfg = true) :
    (State.sequencerTurn^[4] s).fault = none := by
  have hp1 : s.sequencerTurn.phase = .rst1 := by simp [State.sequencerTurn, State.microNext, hp]
  have hf1 : s.sequencerTurn.fault = none := by simpa [State.sequencerTurn, State.microNext, hp] using hf
  have hd1 : s.sequencerTurn.cfg.device ≠ .absent → s.sequencerTurn.dlab = true := by
    intro hd
    simp only [State.sequencerTurn, microNext_cfg, State.takeTurn_cfg] at hd
    simpa [State.sequencerTurn, State.microNext, hp, State.dlab, portWrite_lcr, hd, opensWindow] using hw
  have hp2 : s.sequencerTurn.sequencerTurn.phase = .rst2 := by
    simp [State.sequencerTurn, State.microNext, hp]
  obtain ⟨hf2, hd2⟩ := divisorTurn (.inl hp1) hd1
  obtain ⟨hf3, -⟩ := divisorTurn (.inr hp2) hd2
  have hf4 : (State.sequencerTurn^[4] s).fault = s.sequencerTurn.sequencerTurn.sequencerTurn.fault := by
    simp [State.sequencerTurn, State.microNext, hp]
  rw [hf4, hf3, hf2, hf1]

/-- The four turns of the RESET sequence end in Idle with the cache written, and append the events of R120 (R126). -/
theorem resetTurns {s : State} (hp : s.phase = .rst0) (hf : s.fault = none) (hw : opensWindow s.cfg = true) :
    (State.sequencerTurn^[4] s).phase = .idle ∧ (State.sequencerTurn^[4] s).lcr = some s.cfg.lcrFormat ∧
      (State.sequencerTurn^[4] s).rest = s.rest ∧ (State.sequencerTurn^[4] s).fault = none ∧
      (State.sequencerTurn^[4] s).trace = s.trace ++ resetEvents s.cfg ∧
      (State.sequencerTurn^[4] s).hostPos = s.hostPos ∧ (State.sequencerTurn^[4] s).lsrIn = s.lsrIn := by
  refine ⟨?_, ?_, ?_, resetTurns_fault hp hf hw, ?_, ?_, ?_⟩ <;>
    simp [State.sequencerTurn, State.microNext, hp, resetEvents]

/-! ## The launch, and a turn of the sequencer under the invariant -/

section
variable {d : Bool} {s : State}

/-- The invariant at a launch: in Rst0, with an empty trace and an unwritten cache, every clause holds (R40, R41). -/
theorem BlockInv.of_launch {c : Config} {u : Uart} (stream answers : List Byte) (order : List Agent)
    (hl : State.launch c u = .next s) (hw : opensWindow c = true) :
    BlockInv (dlabOf u.lcr) (s.withInputs stream answers order) := by
  obtain ⟨hc, rfl⟩ := launch_next hl
  exact
    { config := ⟨hc, hw⟩
      lastWrite := nofun
      scanDlab := fun _ => rfl
      scanOk := rfl
      window := nofun
      closed := fun hn => absurd rfl hn
      cacheUnwritten := fun _ => rfl
      cacheFormat := nofun
      sendReady := nofun
      sendThre := nofun
      restEmpty := fun _ => rfl
      faultKind := nofun }

/-- Under the invariant a micro-step raises no fault (R83, R195). -/
theorem BlockInv.microNext_fault (h : BlockInv d s) : s.microNext.fault = s.fault := by
  have hwindow (hw : s.phase.inWindow = true) (hd : s.cfg.device ≠ .absent) : s.dlab = true :=
    (h.scanDlab hd).symm.trans (h.window hw)
  cases hp : s.phase
  case rst1 => exact (microNext_divisor (.inl hp) (hwindow (by rw [hp]; rfl))).1
  case rst2 => exact (microNext_divisor (.inr hp) (hwindow (by rw [hp]; rfl))).1
  case send =>
    have hclear := h.scanDlab_clear (by rw [hp]; rfl)
    simpa [State.microNext, hp, advance_fault] using
      (dataWrite_dev s.cur (fun hd => (h.scanDlab hd).symm.trans hclear) (h.sendThre hp)).1
  case rst0 | rst3 | idle | poll => simp [State.microNext, hp]

/-- Under the invariant a step of the sequencer is its whole micro-step. -/
theorem BlockInv.step_sequencer {t : State} (h : BlockInv d s) (ha : s.nextAgent = .sequencer)
    (hs : step s = .next t) : t = s.sequencerTurn ∧ t.fault = none := by
  have hf : s.sequencerTurn.fault = none := h.takeTurn.microNext_fault.trans (step_next hs).1
  rw [step_sequencerTurn ha hf] at hs
  cases hs
  exact ⟨rfl, hf⟩

end

/-! ## The two device models -/

/-- What a micro-step leaves in the sequencer's registers and the trace does not depend on what is behind the bus, but
for the value of an LSR read (R44, R63). -/
theorem microNext_agree (s : State) (m : DeviceModel) (d : Uart) (as : List Byte) (q : List Agent) (n : Nat) {o : State}
    (ho : o = { s with cfg := { s.cfg with device := m }, dev := d, lsrIn := as, sched := q, draws := n })
    (hread : o.readValue Config.offLsr = s.readValue Config.offLsr) :
    o.microNext.phase = s.microNext.phase ∧ o.microNext.lcr = s.microNext.lcr ∧
      o.microNext.rest = s.microNext.rest ∧ o.microNext.trace = s.microNext.trace ∧
      (inTransmit s.microNext.phase = true → o.microNext.cur = s.microNext.cur) := by
  have hphase : o.phase = s.phase := by rw [ho]
  cases hp : s.phase
  case send => cases hr : s.rest <;> simp [State.microNext, State.advance, hp, ho, hr, inTransmit]
  case poll =>
    simp only [State.microNext, hphase, hp, hread, portRead_lsr]
    simp [ho]
  case rst0 | rst1 | rst2 | rst3 | idle => simp [State.microNext, hp, ho, divisorLow, divisorHigh]

/-- The oracle model in the state `s` of the reference device model, the sequencer moving next and the device's answer
listed (R44). -/
def asOracle (s : State) : State :=
  { s with
    cfg := { s.cfg with device := .oracle }
    sched := .sequencer :: s.sched.tail
    lsrIn := s.takeTurn.readValue Config.offLsr :: s.lsrIn.tail }

/-- A step of the oracle model raises no fault. -/
theorem asOracle_fault (s : State) : (asOracle s).sequencerTurn.fault = s.fault :=
  microNext_fault_oracle (s := (asOracle s).takeTurn) (by simp [asOracle])

/-! ## Readings of the trace -/

/-- The DLAB of a reading is bit 7 of the trace's last LCR write (R31, R38). -/
theorem scanTrace_dlab_of_lastLcrWrite (d : Bool) {es : List Event} {v : Byte} (h : lastLcrWrite es = some v) :
    (scanTrace d es).dlab = dlabOf v := by
  induction es using List.reverseRecOn with
  | nil => simp [lastLcrWrite] at h
  | append_singleton es e ih =>
    rw [scanTrace_append]
    cases e with
    | r p w => exact ih (lastLcrWrite_append_read es p w ▸ h)
    | w p w =>
      by_cases hp : p = portAddr Config.offLcr
      · subst hp
        rw [lastLcrWrite_append_lcr, Option.some.injEq] at h
        rw [scanEvent_lcr, h]
      · rw [scanEvent_dlab hp]
        exact ih (lastLcrWrite_append_other es hp w ▸ h)

/-- A reading is armed only just after a ready LSR read (R195). -/
theorem ready_read_of_armed {d : Bool} {es : List Event} (h : (scanTrace d es).armed = true) :
    ∃ before r, es = before ++ [.r (portAddr Config.offLsr) r] ∧ ready r = true := by
  obtain rfl | ⟨before, e, rfl⟩ := List.eq_nil_or_concat es
  · simp [scanTrace] at h
  · rw [List.concat_eq_append, scanTrace_append] at h
    cases e with
    | r p r =>
      simp only [scanEvent, Bool.and_eq_true, decide_eq_true_eq] at h
      exact ⟨before, r, by simp [h.1], h.2⟩
    | w p v =>
      simp only [scanEvent] at h
      split_ifs at h

/-- The window is Rst1, Rst2 and Rst3 (R38). -/
theorem inWindow_iff (p : Phase) : p.inWindow = true ↔ p = .rst1 ∨ p = .rst2 ∨ p = .rst3 := by
  cases p <;> decide

/-- Only Rst1 and Send write offset 0 (R123, R144). -/
theorem phase_of_dataEvent {s : State} {v : Byte} (h : s.microEvents = [.w 0x3F8#16 v]) :
    s.phase = .rst1 ∨ s.phase = .send := by
  have hports : portAddr Config.offLcr ≠ 0x3F8#16 ∧ portAddr Config.offDlm ≠ 0x3F8#16 := by decide
  cases hp : s.phase <;> simp [State.microEvents, hp, hports] at h ⊢

/-- The RESET sequence writes no data register, DLAB being set in the window (R38, R197). -/
theorem microEvents_reset_select {s : State} {dlab : Bool} (hr : s.phase.inReset = true)
    (hw : s.phase.inWindow = true → dlab = true) : ∀ e ∈ s.microEvents, e.select dlab ≠ some .wrThr := by
  cases hp : s.phase <;> simp only [hp, Phase.inReset, Phase.inWindow, reduceCtorEq, true_implies] at hr hw
  case rst1 | rst2 => simp [State.microEvents, hp, select_write, hw]
  case rst0 | rst3 => simp [State.microEvents, hp, select_write]

section
variable {d : Bool} {s : State}

/-- Once the cache is written, DLAB is set exactly in the window (R38). -/
theorem BlockInv.scanDlab_eq_inWindow (h : BlockInv d s) (hc : s.lcr ≠ none) :
    (scanTrace d s.trace).dlab = s.phase.inWindow := by
  cases hw : s.phase.inWindow
  · exact h.closed hc hw
  · exact h.window hw

end

/-! ## The transmitter -/

section
variable {s : State}

/-- A register write leaves the transmitter, whether or not there is a device (R101 to R103, R173). -/
theorem stored_transmitter {d : Uart} (ht : d.thre = s.dev.thre) (hw : d.wire = s.dev.wire) :
    (s.stored d).thre = s.dev.thre ∧ (s.stored d).wire = s.dev.wire := by
  unfold State.stored
  split
  · exact ⟨rfl, rfl⟩
  · exact ⟨ht, hw⟩

/-- A port write leaves THRE and the wire, but for a data write to the reference device model (R43, R104). -/
theorem portWrite_transmitter (off : Offset) (v : Byte) (s : State) :
    ((s.portWrite off v).dev.thre = s.dev.thre ∧ (s.portWrite off v).dev.wire = s.dev.wire) ∨
      (s.cfg.device = .reference ∧ decodeSelect (selectKey s.dlab true off) = some .wrThr ∧
        (s.portWrite off v).dev.thre = false ∧ (s.portWrite off v).dev.wire = s.dev.wire ++ [v]) := by
  unfold State.portWrite State.deviceWrite
  rw [State.record_dlab]
  split
  · exact .inl (stored_transmitter rfl rfl)
  · exact .inl (stored_transmitter rfl rfl)
  · exact .inl (stored_transmitter rfl rfl)
  · rename_i hsel
    unfold State.acceptByte
    split
    · exact .inl ⟨rfl, rfl⟩
    · exact .inl ⟨rfl, rfl⟩
    · rename_i hm
      split
      · exact .inr ⟨hm, hsel, rfl, rfl⟩
      · exact .inl ⟨rfl, rfl⟩
  · exact .inl ⟨rfl, rfl⟩
  · unfold State.unmodelledAccess
    split <;> exact .inl ⟨rfl, rfl⟩

/-- Under the invariant only Send changes THRE and the wire, and only in the reference device model (R35, R43). -/
theorem BlockInv.microNext_transmitter {d : Bool} (h : BlockInv d s) :
    (s.microNext.dev.thre = s.dev.thre ∧ s.microNext.dev.wire = s.dev.wire) ∨
      (s.cfg.device = .reference ∧ s.phase = .send ∧ s.microNext.dev.thre = false ∧
        s.microNext.dev.wire = s.dev.wire ++ [s.cur]) := by
  cases hp : s.phase <;> simp only [State.microNext, hp, State.goto_dev, advance_frame, reduceCtorEq, false_and,
    and_false, or_false, true_and]
  case rst0 => exact (portWrite_transmitter _ _ s).resolve_right (by simp)
  case rst1 =>
    refine (portWrite_transmitter _ _ s).resolve_right fun ⟨hm, hsel, _⟩ => ?_
    have hset : s.dlab = true := (h.scanDlab (by simp [hm])).symm.trans (h.window (by rw [hp]; rfl))
    simp [hset] at hsel
  case rst2 => exact (portWrite_transmitter _ _ s).resolve_right (by simp)
  case rst3 => exact (portWrite_transmitter _ _ (s.setCache s.cfg.lcrFormat)).resolve_right (by simp)
  case poll => simp [portRead_lsr]
  case send => exact (portWrite_transmitter _ _ s).imp_right fun ⟨hm, _, hd⟩ => ⟨hm, hd⟩

/-- Who changes THRE and the wire: the drain step and Send, in the reference device model (R35, R43). -/
theorem BlockInv.step_transmitter {d : Bool} {t : State} (h : BlockInv d s) (hst : step s = .next t) :
    (t.dev.thre = s.dev.thre ∧ t.dev.wire = s.dev.wire) ∨
      (s.cfg.device = .reference ∧ s.nextAgent = .device ∧ t.dev.thre = true ∧ t.dev.wire = s.dev.wire) ∨
      (s.cfg.device = .reference ∧ s.nextAgent = .sequencer ∧ s.phase = .send ∧ t.dev.thre = false ∧
        t.dev.wire = s.dev.wire ++ [s.cur]) := by
  obtain ⟨-, ha⟩ | ⟨hn, -⟩ | ⟨hn, rfl⟩ := step_cases hst
  · have hdev : t.dev = s.dev := hostStep_dev (s := s.takeTurn) ha
    exact .inl (by simp [hdev])
  · obtain ⟨rfl, -⟩ := h.step_sequencer hn hst
    exact h.takeTurn.microNext_transmitter.imp_right fun ⟨hm, hs⟩ => .inr ⟨hm, hn, hs⟩
  · obtain hd | ⟨hm, -, hd⟩ := drain_cases s.takeTurn <;> rw [hd]
    · exact .inl ⟨rfl, rfl⟩
    · exact .inr (.inl ⟨hm, hn, rfl, rfl⟩)

end

/-! ## Fairness of the drain step -/

/-- A step from Poll in the reference device model stays in Poll unless it is a ready poll; only the drain step changes
THRE there, and it sets it (R43, R143). -/
theorem step_poll_of_not_ready {s t : State} (hm : s.cfg.device = .reference) (hp : s.phase = .poll)
    (hr : ¬ ReadyPoll s) (hst : step s = .next t) :
    t.phase = .poll ∧ t.sched = s.sched.tail ∧ (t.dev.thre = true ↔ s.dev.thre = true ∨ s.nextAgent = .device) := by
  obtain ⟨hn, ha⟩ | ⟨hn, ha⟩ | ⟨hn, rfl⟩ := step_cases hst
  · obtain ⟨n, f, rfl | ⟨hi, -⟩⟩ := hostStep_changes ha
    · simp [hp, hn]
    · simp [hp] at hi
  · have hready : ready (s.takeTurn.readValue Config.offLsr) = false := by simpa [ReadyPoll, hp, hn] using hr
    obtain rfl | ⟨e, r, -, rfl⟩ := sequencerStep_cases ha
    · simp [State.microNext, hp, hready, portRead_lsr, hn]
    · simp [hp, hn]
  · rw [drain_reference (s := s.takeTurn) hm]
    simp [hp, hn]

/-- With THRE set and no turn listed, the step from Poll is a ready poll in the reference device model (R43). -/
theorem readyPoll_of_thre {s : State} (hm : s.cfg.device = .reference) (hp : s.phase = .poll) (ht : s.dev.thre = true)
    (hs : s.sched = []) : ReadyPoll s :=
  ⟨hp, by simp [State.nextAgent, hs, State.drainEnabled, ht, State.owner, hp],
    (ready_readValue_reference s.takeTurn hm).trans ht⟩

/-- No step of a run writes the configuration (R42). -/
theorem IsRun.cfg_eq {r : Nat → State} (hrun : IsRun r) (n : Nat) : (r n).cfg = (r 0).cfg := by
  induction n with
  | zero => rfl
  | succ n ih => exact (step_config (hrun n)).1.trans ih

/-- A run of the reference device model that is in Poll from point `n` on with no ready poll: the assumption that the
fairness argument refutes. -/
structure HangsInPoll (r : Nat → State) (n : Nat) : Prop where
  run : IsRun r
  device : ∀ m, (r m).cfg.device = .reference
  poll : ∀ m, n ≤ m → (r m).phase = .poll
  notReady : ∀ m, n ≤ m → ¬ ReadyPoll (r m)

section
variable {r : Nat → State} {n : Nat}

/-- Each step uses up a listed turn, and THRE rises by the drain step only. -/
theorem HangsInPoll.step (h : HangsInPoll r n) {m : Nat} (hm : n ≤ m) :
    (r (m + 1)).sched = (r m).sched.tail ∧
      ((r (m + 1)).dev.thre = true ↔ (r m).dev.thre = true ∨ (r m).nextAgent = .device) :=
  (step_poll_of_not_ready (h.device m) (h.poll m hm) (h.notReady m hm) (h.run m)).2

/-- A fair drain step sets THRE (R43). -/
theorem HangsInPoll.thre_rises (h : HangsInPoll r n) (hfair : WeakFairDrain r) :
    ∃ m, n ≤ m ∧ (r m).dev.thre = true := by
  by_contra hno
  have hclear (m : Nat) (hm : n ≤ m) : (r m).dev.thre = false := by
    simpa using fun ht => hno ⟨m, hm, ht⟩
  have henabled (m : Nat) (hm : n ≤ m) : (r m).drainEnabled = true := by
    simp [State.drainEnabled, h.device m, hclear m hm]
  obtain ⟨m, hm, hdev⟩ := hfair n henabled
  exact hno ⟨m + 1, by omega, (h.step hm).2.mpr (.inr hdev)⟩

/-- THRE stays set while the listed turns are used up. -/
theorem HangsInPoll.thre_stays (h : HangsInPoll r n) {m : Nat} (hm : n ≤ m) (ht : (r m).dev.thre = true) (k : Nat) :
    (r (m + k)).dev.thre = true ∧ (r (m + k)).sched = (r m).sched.drop k := by
  induction k with
  | zero => exact ⟨ht, rfl⟩
  | succ k ih =>
    obtain ⟨hsched, hthre⟩ := h.step (show n ≤ m + k by omega)
    exact ⟨hthre.mpr (.inl ih.1), by rw [← Nat.add_assoc, hsched, ih.2, List.tail_drop]⟩

/-- A run of the reference device model that no ready poll ends stays in Poll for ever. -/
theorem hangsInPoll_of_no_readyPoll (hrun : IsRun r) (hm : (r 0).cfg.device = .reference) (hp : (r n).phase = .poll)
    (hno : ¬ ∃ m, n ≤ m ∧ (∀ k, n ≤ k → k ≤ m → (r k).phase = .poll) ∧ ReadyPoll (r m)) : HangsInPoll r n := by
  have hdevice (m : Nat) : (r m).cfg.device = .reference := by rw [hrun.cfg_eq m, hm]
  have hpoll (m : Nat) (hnm : n ≤ m) : ∀ k, n ≤ k → k ≤ m → (r k).phase = .poll := by
    induction m, hnm using Nat.le_induction with
    | base => exact fun k hk hkn => le_antisymm hkn hk ▸ hp
    | succ m hnm ih =>
      intro k hk hkm
      obtain hlt | rfl := Nat.lt_or_eq_of_le hkm
      · exact ih k hk (by omega)
      · exact (step_poll_of_not_ready (hdevice m) (ih m hnm le_rfl) (fun hr => hno ⟨m, hnm, ih, hr⟩) (hrun m)).1
  exact
    { run := hrun
      device := hdevice
      poll := fun m hnm => hpoll m hnm m hnm le_rfl
      notReady := fun m hnm hr => hno ⟨m, hnm, hpoll m hnm, hr⟩ }

/-- No fair run hangs in Poll: the drain step sets THRE, the listed turns end, and then the sequencer polls (R202). -/
theorem not_hangsInPoll (hfair : WeakFairDrain r) : ¬ HangsInPoll r n := by
  intro h
  obtain ⟨m, hm, ht⟩ := h.thre_rises hfair
  obtain ⟨hthre, hsched⟩ := h.thre_stays hm ht (r m).sched.length
  have hlast : n ≤ m + (r m).sched.length := by omega
  exact h.notReady _ hlast (readyPoll_of_thre (h.device _) (h.poll _ hlast) hthre (by simpa using hsched))

end

end Sys2Proof.Safety
end

section
/-!
PROOFS. The statements of the state (10_state.md): the transactions, the micro-steps, the launch, who writes which
register, the DLAB window and the transmitter.
-/

namespace Sys2Proof.Safety

open Sys2Proof.Machine

/-- Settles O21: an LCR write is decoded in either DLAB state. -/
theorem wrLcrEffect : Obligations.WrLcrEffect := by
  intro v s hf
  exact (transact_ok hf).trans (congrArg _ (portWrite_lcr v s))

/-- Settles O22: with DLAB set, a write of offset 0 reaches DLL, under either name. -/
theorem wrDllEffect : Obligations.WrDllEffect := by
  intro i v s hi hf hd
  rw [exec_dataWrite hi.symm, transact_ok hf]
  exact congrArg _ (portWrite_dll v s hd)

/-- Settles O24: with DLAB clear, a write of offset 0 hands the byte to the data register of the device model. -/
theorem wrThrEffect : Obligations.WrThrEffect := by
  intro i v s hi hf hd
  rw [exec_dataWrite hi, transact_ok hf, portWrite_thr v s hd]
  refine ⟨fun hm => ?_, fun hm => ?_, fun hm ht => ?_⟩
  · exact congrArg _ (acceptByte_oracle v hm)
  · exact congrArg _ (acceptByte_absent v hm)
  · exact congrArg _ (acceptByte_reference v hm ht)

/-- Settles O26: an LSR read is decoded in either DLAB state, and the reference device model puts THRE in bit 5. -/
theorem rdLsrEffect : Obligations.RdLsrEffect := by
  intro s hf
  refine ⟨s.readValue Config.offLsr, ?_, readValue_oracle _ s, fun hm => ?_, fun a as hs => ?_⟩
  · exact (transact_ok hf).trans (congrArg _ (portRead_lsr s))
  · have hv : s.readValue Config.offLsr = withThre s.dev.thre s.nextAnswer := by simp [State.readValue, hm]
    refine ⟨?_, fun k hk => ?_⟩
    · rw [hv, getLsbD_withThre, if_pos rfl]
    · rw [hv, getLsbD_withThre, if_neg hk]
  · simp [State.nextAnswer, State.takeAnswer, hs]

/-- Settles O30: the step of a phase is the micro-step of that phase. -/
theorem sequencerStepRunsTheTransaction : Obligations.SequencerStepRunsTheTransaction := by
  intro s hf ha
  rw [step_sequencer hf ha]
  refine ⟨fun hp => ?_, fun hp => ?_, fun hp => ?_, fun hp => ?_, fun hp => ?_, fun hp => ?_⟩
  · show _ = microRst0 s.takeTurn; simp [sequencerStep, hp]
  · show _ = microRst1 s.takeTurn; simp [sequencerStep, hp]
  · show _ = microRst2 s.takeTurn; simp [sequencerStep, hp]
  · show _ = microRst3 s.takeTurn; simp [sequencerStep, hp]
  · show _ = microPoll s.takeTurn; simp [sequencerStep, hp]
  · show _ = microSend s.takeTurn; simp [sequencerStep, hp]

/-- Settles O33: the cache takes `LCR_FORMAT` and the LCR write cannot fault. -/
theorem rst3Step : Obligations.Rst3Step := by
  intro s hf ha hp
  have hnext : s.sequencerTurn =
      ((s.takeTurn.setCache s.cfg.lcrFormat).portWrite Config.offLcr s.cfg.lcrFormat).goto .idle := by
    simp [State.sequencerTurn, State.microNext, hp]
  rw [step_sequencerTurn ha (by simpa [hnext] using hf), hnext, portWrite_lcr]
  rfl

/-- Settles O34: the read cannot fault, and the ready predicate is bit 5. -/
theorem pollStep : Obligations.PollStep := by
  intro s hf ha hp
  have hnext : s.sequencerTurn = (s.takeTurn.portRead Config.offLsr).goto
      (if ready (s.takeTurn.readValue Config.offLsr) then .send else .poll) := by
    simp [State.sequencerTurn, State.microNext, hp]
  refine ⟨_, rfl, ?_⟩
  rw [step_sequencerTurn ha (by simpa [hnext] using hf), hnext, portRead_lsr, ready_eq]
  rfl

/-- Settles O36: the step is the drain step, which is enabled in the reference device model only. -/
theorem drainStep : Obligations.DrainStep := by
  intro s hf ha
  rw [step_device hf ha]
  exact ⟨fun hm => congrArg _ (drain_reference (s := s.takeTurn) hm),
    fun hm => congrArg _ (drain_other (s := s.takeTurn) hm)⟩

/-- Settles O51: `State.reset` is a launch with the default configuration. -/
theorem launchHasBlockInv : Obligations.LaunchHasBlockInv :=
  ⟨fun _ _ _ stream answers order hl hw => .of_launch stream answers order hl hw,
    .of_launch (c := {}) (u := Uart.reset) (s := State.reset) [] [] [] rfl rfl⟩

/-- Settles O39: a launch is in Rst0 with no fault, and four turns of the sequencer run the RESET sequence. -/
theorem launchRunsReset : Obligations.LaunchRunsReset := by
  intro c d s stream answers order hl hw
  obtain ⟨-, rfl⟩ := launch_next hl
  exact ⟨_, runSteps_sequencerTurns 4 ⟨order, rfl⟩ (resetTurns_fault rfl rfl hw), resetTurns rfl rfl hw⟩

/-- Settles O46: no agent's step writes either. -/
theorem configurationIsNeverWritten : Obligations.ConfigurationIsNeverWritten := fun _ _ h => step_config h

/-- Settles O48: the host and the drain step leave the cache, and so does every micro-step but Rst3. -/
theorem cacheWrittenOnlyByRst3 : Obligations.CacheWrittenOnlyByRst3 := by
  intro s t hst
  obtain ⟨-, ha⟩ | ⟨hn, ha⟩ | ⟨-, rfl⟩ := step_cases hst
  · obtain ⟨n, f, rfl | ⟨-, rfl | ⟨b, bs, rfl⟩⟩⟩ := hostStep_changes ha <;> exact .inl rfl
  · obtain rfl | ⟨e, r, -, rfl⟩ := sequencerStep_cases ha
    · exact (microNext_cache s.takeTurn).imp_right fun h => ⟨hn, h⟩
    · exact .inl rfl
  · simp [drain_frame]

/-- Settles O49: the host admits commands in Idle only, and each micro-step names its successor. -/
theorem phaseTransitions : Obligations.PhaseTransitions := by
  intro s t hst
  obtain ⟨hn, ha⟩ | ⟨hn, ha⟩ | ⟨-, rfl⟩ := step_cases hst
  · obtain ⟨n, f, rfl | ⟨hp, rfl | ⟨b, bs, rfl⟩⟩⟩ := hostStep_changes ha
    · exact .inl rfl
    · exact .inr (.inr ⟨hn, hp, .inl rfl⟩)
    · exact .inr (.inr ⟨hn, hp, .inr rfl⟩)
  · obtain rfl | ⟨e, r, -, rfl⟩ := sequencerStep_cases ha
    · exact (microNext_phase s.takeTurn).imp_right fun h => .inl ⟨hn, h⟩
    · exact .inl rfl
  · simp [drain_frame]

/-- Settles O52: the invariant after the step ties DLAB to the window; the RESET sequence writes no data register. -/
theorem dlabWindow : Obligations.DlabWindow := by
  intro d s t h hst
  have ht : BlockInv d t := stepKeepsBlockInv d s t h hst
  refine ⟨fun hc v hv => ?_, fun hd => ⟨fun hc => ?_, ht.lastWrite hd⟩, fun hc es hes e he => ?_⟩
  · rw [← inWindow_iff, ← ht.scanDlab_eq_inWindow hc, scanTrace_dlab_of_lastLcrWrite d hv, dlabOf]
  · rw [← inWindow_iff, ← ht.scanDlab_eq_inWindow hc, ht.scanDlab hd, State.dlab, dlabOf]
  · have hevents := List.append_cancel_left (hes.symm.trans (step_events hst))
    have he' : e ∈ s.takeTurn.microEvents := by
      rw [hevents] at he
      split_ifs at he
      · exact he
      · simp at he
    have hk := h.takeTurn
    have hr := hk.cacheUnwritten hc
    exact ⟨microEvents_reset_select hr hk.window e he',
      fun hd => microEvents_reset_select hr (fun hw => (hk.scanDlab hd).symm.trans (hk.window hw)) e he'⟩

/-- Settles O54: with DLAB clear only Send writes offset 0, and Send is entered with an armed reading. -/
theorem dataWriteFollowsReadyRead : Obligations.DataWriteFollowsReadyRead := by
  intro d s t v h hst hclear htrace
  have hevents := List.append_cancel_left ((step_events hst).symm.trans htrace)
  split_ifs at hevents
  have hsend : s.phase = .send := by
    refine (phase_of_dataEvent hevents).resolve_left fun hp => ?_
    have hset := h.window (by rw [show s.phase = .rst1 from hp]; rfl)
    simp [hset] at hclear
  obtain ⟨before, r, htr, hr⟩ := ready_read_of_armed (h.sendReady hsend)
  exact ⟨before, r, htr, (ready_eq r).symm.trans hr⟩

/-- Settles O55: THRE and the wire change by Send and the drain step only. -/
theorem threChanges : Obligations.ThreChanges := by
  intro d s t h hst
  obtain ⟨ht, hw⟩ | ⟨hm, hn, ht, hw⟩ | ⟨hm, hn, hp, ht, hw⟩ := h.step_transmitter hst
  · rw [ht, hw]
    exact ⟨fun h1 h0 => by simp [h1] at h0, fun h0 h1 => by simp [h0] at h1, .inl rfl, fun _ => ⟨rfl, rfl⟩⟩
  · simp [hm, hn, ht, hw]
  · simp [hm, hn, hp, ht, hw]

/-- Settles O56: neither step faults, and the micro-step sees of the device the value read only. -/
theorem referenceStepIsAnOracleStep : Obligations.ReferenceStepIsAnOracleStep := by
  intro d s t h hm ha hst
  obtain ⟨rfl, hf⟩ := h.step_sequencer ha hst
  obtain ⟨hphase, hcache, hrest, htrace, hcur⟩ :=
    microNext_agree s.takeTurn .oracle s.dev _ _ _ (o := (asOracle s).takeTurn) rfl rfl
  have hfault := (asOracle_fault s).trans (step_next hst).1
  exact ⟨_, step_sequencerTurn (s := asOracle s) rfl hfault, hphase, hcache, hrest, hfault.trans hf.symm, htrace, hcur⟩

/-- Settles O58: the read returns the listed answer, and the next phase is decided by its bit 5. -/
theorem pollSeesOnlyBitFive : Obligations.PollSeesOnlyBitFive := by
  intro s t u a b as hp ha hm hab ht hu
  have hf : s.fault = none := (step_next ht).1
  obtain ⟨va, rfl, hta⟩ := pollStep { s with lsrIn := a :: as } hf ha hp
  obtain ⟨vb, rfl, hub⟩ := pollStep { s with lsrIn := b :: as } hf ha hp
  cases ht.symm.trans hta
  cases hu.symm.trans hub
  have hread (c : Byte) : (State.takeTurn { s with lsrIn := c :: as }).readValue Config.offLsr = c :=
    readValue_oracle _ _ hm
  rw [hread, hread, hab]
  rfl

/-- Settles O59: the drain step makes the next read ready; a fair run that hung in Poll would reach a ready poll. -/
theorem drainMakesPollReady : Obligations.DrainMakesPollReady := by
  refine ⟨fun s later hf hp hm hs => ?_, fun r hrun hm hfair n hp => ?_⟩
  · have hdrain := (drainStep s hf (by simp [State.nextAgent, hs])).1 hm
    obtain ⟨v, hv, hpoll⟩ := pollStep { s.takeTurn with dev := { s.dev with thre := true } } hf
      (by simp [State.nextAgent, hs]) hp
    have hready : v.getLsbD 5 = true := by
      rw [← ready_eq, hv]
      exact ready_readValue_reference _ hm
    exact ⟨_, (runSteps_of_step 1 hdrain).trans (runSteps_of_step 0 hpoll), if_pos hready, rfl, hf⟩
  · by_contra hno
    exact not_hangsInPoll hfair (hangsInPoll_of_no_readyPoll hrun hm hp hno)

end Sys2Proof.Safety
end

section
/-!
PROOFS. The port bus (20_memory.md): the port of a transaction, a transaction that reaches no register, the divisor
writes, turns in Poll, and why the block does not see the device.
-/

namespace Sys2Proof.Machine

/-! ## Ports and unmodelled registers -/

/-- The port of an offset as a number: the 16-bit sum does not wrap (R52). -/
theorem portAddr_toNat (off : Offset) : (portAddr off).toNat = 0x3F8 + off.toNat := by
  have hlt := off.isLt
  simp only [portAddr, Config.ioport, BitVec.toNat_add, BitVec.toNat_setWidth, BitVec.toNat_ofNat]
  omega

/-- The device's side of a read leaves the trace (R56, R106). -/
theorem deviceRead_trace (off : Offset) (s : State) : (s.deviceRead off).trace = s.trace := by
  unfold State.deviceRead
  split
  · rfl
  · unfold State.unmodelledAccess
    split <;> rfl

/-- A port read of any offset appends its one event (R27, R57). -/
theorem portRead_trace (off : Offset) (s : State) :
    (s.portRead off).trace = s.trace ++ [.r (portAddr off) (s.readValue off)] :=
  deviceRead_trace off _

/-- In the reference device model a transaction that reaches no register faults (R106). -/
theorem unmodelledAccess_reference (key : SelectKey) (port : Port) {s : State} (h : s.cfg.device = .reference) :
    s.unmodelledAccess key port = s.raise (.unmodelledRegister key port) := by
  simp [State.unmodelledAccess, h]

/-- In the oracle model, and without a device, such a transaction has no effect (R63, R106). -/
theorem unmodelledAccess_other (key : SelectKey) (port : Port) {s : State} (h : s.cfg.device ≠ .reference) :
    s.unmodelledAccess key port = s := by
  cases hd : s.cfg.device with
  | reference => exact absurd hd h
  | oracle | absent => simp [State.unmodelledAccess, hd]

/-- A port write whose key matches no row (R78, R106). -/
theorem portWrite_unmodelled {off : Offset} (v : Byte) {s : State}
    (h : decodeSelect (selectKey s.dlab true off) = none) :
    s.portWrite off v =
      (s.record (.w (portAddr off) v)).unmodelledAccess (selectKey s.dlab true off) (portAddr off) := by
  simp [State.portWrite, State.deviceWrite, h]

/-- A port read whose key matches no row (R78, R106). -/
theorem portRead_unmodelled {off : Offset} {s : State} (h : decodeSelect (selectKey s.dlab false off) = none) :
    s.portRead off =
      (s.takeAnswer.record (.r (portAddr off) (s.readValue off))).unmodelledAccess (selectKey s.dlab false off)
        (portAddr off) := by
  have hdlab (e : Event) : (s.takeAnswer.record e).dlab = s.dlab := rfl
  simp [State.portRead, State.deviceRead, hdlab, h]

/-! ## The divisor writes -/

/-- A write of offset 0 reaches DLL if DLAB is set in the device, and an absent device drops it (R102, R173). -/
theorem portWrite_dll_stored (v : Byte) {s : State} (hd : s.cfg.device ≠ .absent → s.dlab = true) :
    s.portWrite Config.offDll v =
      { s with trace := s.trace ++ [.w (portAddr Config.offDll) v], dev := s.stored { s.dev with dll := v } } := by
  by_cases ha : s.cfg.device = .absent
  · rw [portWrite_absent _ v s ha, State.stored_absent _ ha]; rfl
  · exact portWrite_dll v s (hd ha)

/-- A write of offset 1 reaches DLM if DLAB is set in the device, and an absent device drops it (R103, R173). -/
theorem portWrite_dlm_stored (v : Byte) {s : State} (hd : s.cfg.device ≠ .absent → s.dlab = true) :
    s.portWrite Config.offDlm v =
      { s with trace := s.trace ++ [.w (portAddr Config.offDlm) v], dev := s.stored { s.dev with dlm := v } } := by
  by_cases ha : s.cfg.device = .absent
  · rw [portWrite_absent _ v s ha, State.stored_absent _ ha]; rfl
  · exact portWrite_dlm v s (hd ha)

/-! ## A micro-step without the reference device model -/

/-- A port write outside the reference device model: the event, and registers of the device at most (R100, R173). -/
theorem portWrite_frame_oracle (off : Offset) (v : Byte) {s : State} (h : s.cfg.device ≠ .reference) :
    ∃ d, s.portWrite off v = { s with trace := s.trace ++ [.w (portAddr off) v], dev := d } := by
  obtain ⟨d, f, he⟩ := portWrite_frame off v s
  have hf : f = s.fault := by simpa [he] using portWrite_fault_oracle off v s h
  exact ⟨d, hf ▸ he⟩

/-- Send uses up no answer of the oracle (R144). -/
theorem microNext_lsrIn_send {s : State} (hp : s.phase = .send) : s.microNext.lsrIn = s.lsrIn := by
  simp [State.microNext, hp, advance_frame]

/-- Without a device a micro-step changes no register behind the bus (R173). -/
theorem microNext_dev_absent {s : State} (h : s.cfg.device = .absent) : s.microNext.dev = s.dev := by
  cases hp : s.phase <;> simp only [State.microNext, hp]
  case rst0 | rst1 | rst2 => simp [portWrite_absent _ _ s h]
  case rst3 => simp [portWrite_absent _ _ (s.setCache s.cfg.lcrFormat) h]
  case poll => simp [portRead_lsr]
  case send => simp [portWrite_absent _ _ s h, advance_frame]

/-- Without a device no step changes a register behind the bus (R63, R173). -/
theorem step_dev_absent {s t : State} (h : s.cfg.device = .absent) (hst : step s = .next t) : t.dev = s.dev := by
  obtain ⟨-, ha⟩ | ⟨-, ha⟩ | ⟨-, rfl⟩ := step_cases hst
  · exact (hostStep_dev ha).trans rfl
  · obtain rfl | ⟨e, r, -, rfl⟩ := sequencerStep_cases ha
    · exact microNext_dev_absent (s := s.takeTurn) h
    · rfl
  · rw [drain_other (by simp [h])]; rfl

/-! ## The same block before another device -/

/-- The same block and inputs with another setting of the device, or none, and other device registers. -/
def State.behind (m : DeviceModel) (d : Uart) (s : State) : State :=
  { s with cfg := { s.cfg with device := m }, dev := d }

section
variable {m : DeviceModel} {d : Uart} {s t : State}

/-- A command whose admission step does not touch the device is admitted alike (R180, R181). -/
theorem admission_behind {f : State → State} (hf : ∀ u, f (State.behind m d u) = (f u).behind m d)
    (h : admission f s = .next t) : admission f (s.behind m d) = .next (t.behind m d) := by
  obtain ⟨hn, ⟨hp, rfl⟩ | ⟨hp, rfl⟩⟩ := admission_next h
  · rw [admission_idle (s := s.behind m d) hn hp, hf]
  · have hn' : (s.behind m d).fault = none := hn
    have hp' : (s.behind m d).phase ≠ .idle := hp
    simp only [admission, hn', if_neg hp']
    rfl

/-- The bytes to send do not depend on the device (R142, R145). -/
theorem beginBytes_behind (bytes : List Byte) (u : State) :
    (u.behind m d).beginBytes bytes = (u.beginBytes bytes).behind m d := by
  cases bytes <;> rfl

/-- A host command has the same meaning whatever is behind the bus (R58). -/
theorem exec_command_behind {i : Instr} (hl : i.level = .command) (h : exec i s = .next t) :
    exec i (s.behind m d) = .next (t.behind m d) := by
  cases i with
  | reset => exact admission_behind (f := State.goto .rst0) (fun _ => rfl) h
  | writeByte b => exact admission_behind (beginBytes_behind [b]) h
  | write bytes => exact admission_behind (beginBytes_behind bytes) h
  | newline =>
    exact admission_behind (f := fun u => u.beginBytes u.cfg.newlineSeq)
      (fun u => beginBytes_behind u.cfg.newlineSeq u) h
  | _ => simp [Instr.level] at hl

/-- The host's step is the same whatever is behind the bus (R58). -/
theorem hostStep_behind (h : hostStep s = .next t) : hostStep (s.behind m d) = .next (t.behind m d) := by
  have hpending : (s.behind m d).pending = s.pending := rfl
  have hphase : (s.behind m d).phase = s.phase := rfl
  unfold hostStep at h ⊢
  rw [hpending, hphase]
  split_ifs at h ⊢
  · cases h; rfl
  · cases hd : decodeCommand s.pending with
    | ok i rest =>
      simp only [hd] at h ⊢
      exact exec_command_behind (decodeCommand_level hd) h
    | truncated k => simp [hd] at h
    | _ => simp only [hd] at h ⊢; cases h; rfl
  · cases h; rfl

/-- Outside the reference device model a port write differs in what the device holds only (R63, R173). -/
theorem portWrite_behind (off : Offset) (v : Byte) (hs : s.cfg.device ≠ .reference) (hm : m ≠ .reference) :
    ∃ d', (s.behind m d).portWrite off v = (s.portWrite off v).behind m d' := by
  obtain ⟨ds, hws⟩ := portWrite_frame_oracle off v hs
  obtain ⟨dm, hwm⟩ := portWrite_frame_oracle off v (s := s.behind m d) hm
  exact ⟨dm, by rw [hws, hwm]; rfl⟩

/-- Outside the reference device model an LSR read returns the same answer (R57, R63). -/
theorem readValue_behind (off : Offset) (hs : s.cfg.device ≠ .reference) (hm : m ≠ .reference) :
    (s.behind m d).readValue off = s.readValue off := by
  rw [readValue_oracle off s hs, readValue_oracle off (s.behind m d) hm]
  rfl

/-- The end of a byte does not depend on the device (R144). -/
theorem advance_behind (u : State) : (u.behind m d).advance = u.advance.behind m d := by
  cases hr : u.rest <;> simp [State.advance, State.behind, hr]

/-- Outside the reference device model a micro-step differs in what the device holds only (R63, R173). -/
theorem microNext_behind (hs : s.cfg.device ≠ .reference) (hm : m ≠ .reference) :
    ∃ d', (s.behind m d).microNext = s.microNext.behind m d' := by
  have write (off : Offset) (v : Byte) := portWrite_behind (d := d) off v hs hm
  have hphase : (s.behind m d).phase = s.phase := rfl
  cases hp : s.phase <;> simp only [State.microNext, hphase, hp]
  case rst0 => exact (write _ _).imp fun _ he => congrArg (State.goto .rst1) he
  case rst1 => exact (write _ _).imp fun _ he => congrArg (State.goto .rst2) he
  case rst2 => exact (write _ _).imp fun _ he => congrArg (State.goto .rst3) he
  case rst3 =>
    exact (portWrite_behind (s := s.setCache s.cfg.lcrFormat) (d := d) _ _ hs hm).imp fun _ he =>
      congrArg (State.goto .idle) he
  case idle => exact ⟨d, rfl⟩
  case poll =>
    refine ⟨d, ?_⟩
    rw [readValue_behind _ hs hm, portRead_lsr, portRead_lsr, readValue_behind _ hs hm]
    rfl
  case send =>
    exact (write _ _).imp fun d' he => (congrArg State.advance he).trans (advance_behind (d := d') _)

/-- Without the reference device model the same agent moves next (R177; log 4). -/
theorem nextAgent_behind (hs : s.cfg.device ≠ .reference) (hm : m ≠ .reference) :
    (s.behind m d).nextAgent = s.nextAgent := by
  cases hq : s.sched <;> simp [State.nextAgent, State.behind, State.drainEnabled, State.owner, hq, hs, hm]

/-- Without the reference device model the block steps alike, and only what the device holds differs (R63, R173). -/
theorem step_behind (hs : s.cfg.device ≠ .reference) (hm : m ≠ .reference) (h : step s = .next t) :
    ∃ d', step (s.behind m d) = .next (t.behind m d') := by
  have hf : (s.behind m d).fault = none := (step_next h).1
  have hagent : (s.behind m d).nextAgent = s.nextAgent := nextAgent_behind hs hm
  obtain ⟨hn, ha⟩ | ⟨hn, -⟩ | ⟨hn, rfl⟩ := step_cases h
  · refine ⟨d, ?_⟩
    have hstep : step (s.behind m d) = hostStep (s.takeTurn.behind m d) := by
      simp only [step, stepNext, hf, hagent, hn]; rfl
    exact hstep.trans (hostStep_behind ha)
  · have hok : s.sequencerTurn.fault = none := (microNext_fault_oracle (s := s.takeTurn) hs).trans (step_next h).1
    cases h.symm.trans (step_sequencerTurn hn hok)
    have hok' : (s.behind m d).sequencerTurn.fault = none :=
      (microNext_fault_oracle (s := (s.behind m d).takeTurn) hm).trans hf
    exact (microNext_behind (s := s.takeTurn) (d := d) hs hm).imp fun d' he =>
      (step_sequencerTurn (hagent.trans hn) hok').trans (congrArg _ he)
  · refine ⟨d, ?_⟩
    rw [step_device hf (hagent.trans hn), drain_other (s := s.takeTurn) hs,
      drain_other (s := (s.behind m d).takeTurn) hm]
    rfl

end

end Sys2Proof.Machine

namespace Sys2Proof.Safety

open Sys2Proof.Machine

/-! ## Turns in Poll with the answers listed -/

/-- What the poll count says of the answers: not-ready ones, and then the first ready one (R149). -/
theorem pollCount_eq_some {as : List Byte} {k : Nat} (h : pollCount as = some k) :
    ∃ us a later, as = us ++ a :: later ∧ (∀ u ∈ us, ready u = false) ∧ ready a = true ∧ k = us.length + 1 := by
  induction as generalizing k with
  | nil => simp [pollCount] at h
  | cons a as ih =>
    cases hr : ready a with
    | true =>
      have hk : 1 = k := by simpa [pollCount, hr] using h
      exact ⟨[], a, as, rfl, by simp, hr, hk.symm⟩
    | false =>
      obtain ⟨n, hn, rfl⟩ : ∃ n, pollCount as = some n ∧ n + 1 = k := by simpa [pollCount, hr] using h
      obtain ⟨us, b, later, rfl, hus, hb, rfl⟩ := ih hn
      exact ⟨a :: us, b, later, rfl, by simpa [hr] using hus, hb, rfl⟩

/-- The state after the listed answers `us` have been read in Poll, `later` being left, the phase then `p`. -/
def afterReads (p : Phase) (us later : List Byte) (s : State) : State :=
  { s with
    phase := p
    trace := s.trace ++ us.map (Event.r 0x3FD#16)
    lsrIn := later
    sched := s.sched.drop us.length }

/-- Of `m + n` turns ahead the first `m` are the sequencer's. -/
theorem sequencerTurns_of_add {m n : Nat} {s : State} (h : SequencerTurns (m + n) s) : SequencerTurns m s := by
  obtain ⟨order, ho⟩ := h
  exact ⟨List.replicate n .sequencer ++ order, by rw [ho, List.replicate_add, List.append_assoc]⟩

/-- Of `m + n` turns ahead, `n` are left once `m` have been taken. -/
theorem sequencerTurns_of_drop {m n : Nat} {s t : State} (h : SequencerTurns (m + n) s)
    (ht : t.sched = s.sched.drop m) : SequencerTurns n t := by
  obtain ⟨order, ho⟩ := h
  exact ⟨order, by rw [ht, ho, List.replicate_add, List.append_assoc, List.drop_left' (by simp)]⟩

/-- A turn in Poll reads the first listed answer and goes to Send exactly if it is ready (R143). -/
theorem step_poll_listed {s : State} {a : Byte} {as : List Byte} {k : Nat} (hf : s.fault = none)
    (hp : s.phase = .poll) (hm : s.cfg.device ≠ .reference) (hs : s.lsrIn = a :: as)
    (hturns : SequencerTurns (k + 1) s) :
    step s = .next (afterReads (if ready a then .send else .poll) [a] as s) := by
  obtain ⟨hn, hturn, -⟩ := sequencerTurns_succ hturns
  obtain ⟨v, hv, hstep⟩ := pollStep s hf hn hp
  have hva : v = a := by
    rw [hv, readValue_oracle _ s.takeTurn hm]
    simp [State.nextAnswer, hs]
  rw [hstep, hva, hturn, ready_eq]
  simp [afterReads, State.takeAnswer, hs]

/-- Turns in Poll whose answers are not ready: one read each, and the block stays in Poll (R150). -/
theorem runSteps_not_ready {s : State} (us later : List Byte) (hf : s.fault = none) (hp : s.phase = .poll)
    (hm : s.cfg.device ≠ .reference) (hs : s.lsrIn = us ++ later) (hus : ∀ u ∈ us, ready u = false)
    (hturns : SequencerTurns us.length s) : runSteps us.length s = .next (afterReads .poll us later s) := by
  induction us generalizing s with
  | nil =>
    have hsame : afterReads .poll [] later s = s := by
      simp only [List.nil_append] at hs
      simp [afterReads, ← hp, ← hs]
    rw [hsame]; rfl
  | cons u us ih =>
    have hu : ready u = false := hus u (by simp)
    have hstep : step s = .next (afterReads .poll [u] (us ++ later) s) := by
      simpa [hu] using step_poll_listed hf hp hm hs hturns
    obtain ⟨-, -, hleft⟩ := sequencerTurns_succ hturns
    have hrest := ih (s := afterReads .poll [u] (us ++ later) s) hf rfl hm rfl (fun w hw => hus w (by simp [hw]))
      (hleft _ (by simp [afterReads]))
    rw [List.length_cons, runSteps_of_step _ hstep, hrest]
    simp [afterReads, Nat.add_comm]

/-- The turns of one Poll phase with its answers listed, the last one ready: one read each, and then Send (R143). -/
theorem runSteps_until_ready {s : State} {us later : List Byte} {a : Byte} (hf : s.fault = none)
    (hp : s.phase = .poll) (hm : s.cfg.device ≠ .reference) (hs : s.lsrIn = us ++ a :: later)
    (hus : ∀ u ∈ us, ready u = false) (ha : ready a = true) (hturns : SequencerTurns (us.length + 1) s) :
    runSteps (us.length + 1) s = .next (afterReads .send (us ++ [a]) later s) := by
  have hwait := runSteps_not_ready us (a :: later) hf hp hm hs hus (sequencerTurns_of_add hturns)
  have hread := step_poll_listed (s := afterReads .poll us (a :: later) s) hf rfl hm rfl
    (sequencerTurns_of_drop hturns rfl)
  rw [runSteps_add _ 1 hwait, runSteps_of_step 0 hread, ha]
  simp [afterReads]

end Sys2Proof.Safety
end

section
/-!
PROOFS. The statements of the port bus (20_memory.md).
-/

namespace Sys2Proof.PortBus

open Sys2Proof.Machine Sys2Proof.Safety

/-- Settles O27: the event is recorded, and the rest is what the device model says of an unmodelled register. -/
theorem unmodelledAccess : Obligations.UnmodelledAccess := by
  intro off v s
  refine ⟨fun hkey => ?_, fun hkey => ?_⟩
  · rw [portWrite_unmodelled v hkey]
    exact ⟨fun hm => unmodelledAccess_other _ _ hm, fun hm => unmodelledAccess_reference _ _ hm⟩
  · rw [portRead_unmodelled hkey]
    exact ⟨fun hm => unmodelledAccess_other _ _ hm, fun hm => unmodelledAccess_reference _ _ hm⟩

/-- Settles O41: the reads up to the first ready answer, and then one turn in Send. -/
theorem pollCount : Obligations.PollCount := by
  intro s k hf hp hm hcount hturns
  obtain ⟨us, a, later, hs, hus, ha, rfl⟩ := pollCount_eq_some hcount
  have hreads := runSteps_until_ready hf hp hm hs hus ha (sequencerTurns_of_add hturns)
  obtain ⟨hturn, -⟩ := sequencerTurns_succ (k := 0) (s := afterReads .send (us ++ [a]) later s)
    (sequencerTurns_of_drop hturns (by simp [afterReads]))
  have hsend := step_sequencerTurn hturn
    ((microNext_fault_oracle (s := (afterReads .send (us ++ [a]) later s).takeTurn) hm).trans hf)
  have htake : s.lsrIn.take (us.length + 1) = us ++ [a] := by simp [hs, List.take_append]
  have htrace : (afterReads .send (us ++ [a]) later s).sequencerTurn.trace =
      s.trace ++ (us ++ [a]).map (Event.r 0x3FD#16) ++ [.w 0x3F8#16 s.cur] := microNext_trace _
  refine ⟨_, (runSteps_add _ 1 hreads).trans (runSteps_of_step 0 hsend), ?_, ?_, fun j hj => ?_, ?_⟩
  · rw [htake]; exact htrace
  · rw [State.sequencerTurn, microNext_lsrIn_send (by rfl)]
    simp [afterReads, hs]
  · have hj' : j < us.length := by omega
    have hget : s.lsrIn.getD j 0#8 = us[j] := by simp [hs, List.getElem?_append_left hj', hj']
    exact hget ▸ hus _ (List.getElem_mem hj')
  · simpa [hs] using ha

/-- Settles O42: a turn in Poll whose answer is not ready appends its read and stays in Poll. -/
theorem neverReadyHangs : Obligations.NeverReadyHangs := by
  intro s us later hf hp hm hs hus hturns
  exact ⟨_, runSteps_not_ready us later hf hp hm hs hus hturns, rfl, rfl, rfl, rfl, rfl, rfl, hf⟩

/-- Settles O57: the block steps alike before another device, and an absent one takes nothing. -/
theorem deviceStateIsInvisible : Obligations.DeviceStateIsInvisible := by
  intro s t m d hs hm hst
  obtain ⟨d', hstep⟩ := step_behind (d := d) hs hm hst
  exact ⟨⟨t.behind m d', hstep, rfl⟩, fun ha => step_dev_absent ha hst⟩

/-- Settles O7: the offset is below 8, and both port primitives record the event at its port. -/
theorem transactionPortIsBasePlusOffset : Obligations.TransactionPortIsBasePlusOffset := by
  refine ⟨fun off => ⟨rfl, portAddr_toNat off, ?_⟩, fun off v s => ⟨portWrite_trace off v s, portRead_trace off s⟩⟩
  have hport := portAddr_toNat off
  have hlt := off.isLt
  omega

/-- Settles O32: with DLAB set where there is a device, the two writes reach DLL and DLM and raise no fault. -/
theorem divisorSteps : Obligations.DivisorSteps := by
  intro s hf ha hd
  refine ⟨fun hp => ?_, fun hp => ?_⟩
  · have hnext : s.sequencerTurn = (s.takeTurn.portWrite Config.offDll (divisorLow s.cfg)).goto .rst2 := by
      simp [State.sequencerTurn, State.microNext, hp]
    rw [step_sequencerTurn ha ((divisorTurn (.inl hp) hd).1.trans hf), hnext,
      portWrite_dll_stored (s := s.takeTurn) _ hd]
    rfl
  · have hnext : s.sequencerTurn = (s.takeTurn.portWrite Config.offDlm (divisorHigh s.cfg)).goto .rst3 := by
      simp [State.sequencerTurn, State.microNext, hp]
    rw [step_sequencerTurn ha ((divisorTurn (.inr hp) hd).1.trans hf), hnext,
      portWrite_dlm_stored (s := s.takeTurn) _ hd]
    rfl

end Sys2Proof.PortBus
end

section
/-!
PROOFS. The encodings (30_encoding.md): what the decoders answer to an encoded instruction, to a cut one and to a
reserved opcode, how a whole stream decodes, how the assembler reads an immediate, and how a transmit command runs to
completion with its answers listed.
-/

namespace Sys2Proof

/-! ## The length field -/

/-- The low and the high byte of a length field's value are its two bytes (R73). -/
theorem bytes_lengthField (lo hi : Byte) :
    lowByte (BitVec.ofNat 16 (lengthField lo hi)) = lo ∧ highByte (BitVec.ofNat 16 (lengthField lo hi)) = hi := by
  have hv : BitVec.ofNat 16 (lengthField lo hi) = hi ++ lo := BitVec.ofNat_toNat 16 (hi ++ lo)
  rw [hv]
  exact ⟨BitVec.extractLsb'_append_eq_right, BitVec.extractLsb'_append_eq_left⟩

/-- A length field counts at most 65535 bytes (R73). -/
theorem lengthField_le (lo hi : Byte) : lengthField lo hi ≤ 65535 := Nat.le_of_lt_succ (hi ++ lo).isLt

/-! ## The decoders -/

/-- The bus decoder reads an encoded transaction back (R76, R77; log 2). -/
theorem decodeBus_encode {i : Instr} (tail : List Byte) (hl : i.level = .bus) :
    decodeBus (encode i ++ tail) = .ok i tail := by
  cases i with
  | wrLcr v => rfl
  | wrDll v => rfl
  | wrDlm v => rfl
  | wrThr v => rfl
  | rdLsr => rfl
  | _ => simp [Instr.level] at hl

/-- Whatever the host's decoder reads is the encoding of a well-formed command (R71 to R73). -/
theorem encode_of_decodeCommand {bs rest : List Byte} {i : Instr} (h : decodeCommand bs = .ok i rest) :
    i.wellFormed = true ∧ bs = encode i ++ rest := by
  cases bs with
  | nil => simp [decodeCommand] at h
  | cons op bs =>
    simp only [decodeCommand] at h
    split_ifs at h with h0 h1 h2 h3
    · cases h; exact ⟨rfl, by simp [encode, h0]⟩
    · cases bs <;> cases h
      exact ⟨rfl, by simp [encode, h1]⟩
    · rcases bs with _ | ⟨lo, _ | ⟨hi, bs⟩⟩ <;> simp only [reduceCtorEq] at h
      split_ifs at h with hlen
      cases h
      have hcount : (bs.take (lengthField lo hi)).length = lengthField lo hi := List.length_take_of_le hlen
      obtain ⟨hlo, hhi⟩ := bytes_lengthField lo hi
      exact ⟨(wellFormed_write _).mpr (hcount.trans_le (lengthField_le lo hi)), by
        simp [encode, h2, hcount, hlo, hhi]⟩
    · cases h; exact ⟨rfl, by simp [encode, h3]⟩

/-- A command cut after its first `k` bytes misses the byte at position `k` (R75). -/
theorem decodeCommand_encode_take {i : Instr} {k : Nat} (hw : i.wellFormed = true) (hl : i.level = .command)
    (h0 : 0 < k) (hk : k < (encode i).length) : decodeCommand ((encode i).take k) = .truncated k := by
  cases i with
  | reset | newline => simp only [encode, List.length_cons, List.length_nil] at hk; omega
  | writeByte b =>
    obtain rfl : k = 1 := by simp only [encode, List.length_cons, List.length_nil] at hk; omega
    rfl
  | write bytes =>
    have hn := lengthField_bytes ((wellFormed_write bytes).mp hw)
    match k with
    | 1 => rfl
    | 2 => rfl
    | n + 3 =>
      have hlt : n < bytes.length := by simpa [encode] using hk
      simp [encode, decodeCommand, hn, hlt.le, hlt, Nat.add_comm]
  | _ => simp [Instr.level] at hl

/-- Every opcode byte from 0x04 on is reserved (R74). -/
theorem decodeCommand_reserved {op : Byte} (bs : List Byte) (h : 4 ≤ op.toNat) :
    decodeCommand (op :: bs) = .illegal op bs := by
  have hne (v : Byte) (hv : v.toNat < 4) : op ≠ v := by
    rintro rfl
    omega
  simp [decodeCommand, hne]

/-! ## A whole stream (R75) -/

/-- Put commands before what the rest of the stream decodes to. -/
def streamPrepend (is : List Instr) (v : StreamVerdict) : StreamVerdict := is.foldr streamCons v

@[simp] theorem streamPrepend_commands (is js : List Instr) (e : Option Byte) :
    streamPrepend is (.commands js e) = .commands (is ++ js) e := by
  induction is with
  | nil => rfl
  | cons i is ih => exact congrArg (streamCons i) ih

@[simp] theorem streamPrepend_truncated (is : List Instr) (pos : Nat) :
    streamPrepend is (.truncated pos) = .truncated pos := by
  induction is with
  | nil => rfl
  | cons i is ih => exact congrArg (streamCons i) ih

/-- Whole commands are decoded one after the other, each for one unit of fuel, and then the bytes after them. -/
theorem decodeStreamFrom_encode {is : List Instr} (fuel pos : Nat) (tail : List Byte)
    (h : ∀ i ∈ is, i.wellFormed = true ∧ i.level = .command) :
    decodeStreamFrom (is.length + fuel) pos (is.flatMap encode ++ tail) =
      streamPrepend is (decodeStreamFrom fuel (pos + (is.flatMap encode).length) tail) := by
  induction is generalizing pos with
  | nil => simp [streamPrepend]
  | cons i is ih =>
    obtain ⟨hi, his⟩ := List.forall_mem_cons.mp h
    have hd := decodeCommand_encode (is.flatMap encode ++ tail) hi.1 hi.2
    rw [List.length_cons, Nat.add_right_comm, List.flatMap_cons, List.append_assoc, decodeStreamFrom, hd]
    simp only [ih _ his, streamPrepend, List.foldr_cons, List.length_append, Nat.add_sub_cancel, Nat.add_assoc]

/-- An encoding has at least one byte. -/
theorem encode_length_pos (i : Instr) : 0 < (encode i).length := by cases i <;> simp [encode]

/-- A stream has no more commands than bytes. -/
theorem length_le_length_encode (is : List Instr) : is.length ≤ (is.flatMap encode).length := by
  induction is with
  | nil => rfl
  | cons i is ih =>
    have hpos := encode_length_pos i
    simp only [List.flatMap_cons, List.length_append, List.length_cons]
    omega

/-- Nothing is left to decode at the end of a stream, whatever the fuel. -/
@[simp] theorem decodeStreamFrom_nil (fuel pos : Nat) : decodeStreamFrom fuel pos [] = .commands [] none := by
  cases fuel <;> rfl

/-- A stream of whole commands, and then other bytes, leaves a fuel of at least the number of those bytes. -/
theorem decodeStream_encode {is : List Instr} (tail : List Byte)
    (h : ∀ i ∈ is, i.wellFormed = true ∧ i.level = .command) :
    ∃ fuel, tail.length ≤ fuel ∧ decodeStream (is.flatMap encode ++ tail) =
      streamPrepend is (decodeStreamFrom fuel (is.flatMap encode).length tail) := by
  have hle := length_le_length_encode is
  obtain ⟨n, hn⟩ := Nat.exists_eq_add_of_le hle
  refine ⟨n + tail.length, by omega, ?_⟩
  rw [decodeStream, List.length_append, hn, Nat.add_assoc, decodeStreamFrom_encode _ _ _ h, Nat.zero_add, hn]

end Sys2Proof

namespace Sys2Proof.Machine

/-! ## Immediates of the assembler (R80) -/

/-- A hexadecimal digit is worth at most 15. -/
theorem hexValue_getD_le (c : Char) : (hexValue c).getD 0 ≤ 15 := by
  have hcode {d : Char} (h : c ≤ d) : c.toNat ≤ d.toNat := h
  unfold hexValue
  split_ifs with h1 h2 h3
  · have h9 : c.toNat ≤ 57 := hcode h1.2
    simp only [Option.getD_some]; omega
  · have hF : c.toNat ≤ 70 := hcode h2.2
    simp only [Option.getD_some]; omega
  · have hf : c.toNat ≤ 102 := hcode h3.2
    simp only [Option.getD_some]; omega
  · simp

/-- A number above 255 has at least two digits. -/
theorem two_digits_of_large {base : Nat} {ds : List Char} (h : 255 < digitsValue base ds) :
    ∃ c c' cs, ds = c :: c' :: cs := by
  match ds with
  | [] => simp [digitsValue] at h
  | [c] =>
    have hc := hexValue_getD_le c
    simp [digitsValue] at h
    omega
  | c :: c' :: cs => exact ⟨c, c', cs, rfl⟩

/-- The digits of an immediate end where the text after them begins. -/
theorem takeWhile_digits {p : Char → Bool} {ds after : List Char} (hds : ∀ c ∈ ds, p c = true)
    (hafter : ∀ c, after.head? = some c → p c = false) : (ds ++ after).takeWhile p = ds := by
  have hnil : after.takeWhile p = [] := by
    cases after with
    | nil => rfl
    | cons c cs => simp [hafter c rfl]
  rw [List.takeWhile_append_of_pos hds, hnil, List.append_nil]

/-- An immediate above 255 is out of range, whatever follows (R80). -/
theorem immediate_large {n : Nat} (after : List Char) (h : 255 < n) : immediate n after = .error (.outOfRange n) :=
  if_neg (Nat.not_le.mpr h)

/-- Two decimal digits begin a decimal immediate: it is no quoted character and has no `0x` (R80). -/
theorem parseImm_decimal {c c' : Char} (hc : c.isDigit = true) (hc' : c'.isDigit = true) (r : List Char) :
    parseImm (c :: c' :: r) =
      immediate (digitsValue 10 ((c :: c' :: r).takeWhile Char.isDigit)) ((c :: c' :: r).dropWhile Char.isDigit) := by
  have hquote : c ≠ '\'' := by rintro rfl; simp at hc
  have hx : c' ≠ 'x' := by rintro rfl; simp at hc'
  simp [parseImm, hquote, hx, hc]

/-- At least one hexadecimal digit after `0x` makes a hexadecimal immediate (R80). -/
theorem parseImm_hex {cs : List Char} (h : (cs.takeWhile fun c => (hexValue c).isSome) ≠ []) :
    parseImm ('0' :: 'x' :: cs) =
      immediate (digitsValue 16 (cs.takeWhile fun c => (hexValue c).isSome))
        (cs.dropWhile fun c => (hexValue c).isSome) :=
  if_neg h

/-! ## The host's step -/

/-- When the host moves in a block that is not faulted, the step is the host's (R180). -/
theorem step_host {s : State} (hf : s.fault = none) (ha : s.nextAgent = .host) : step s = hostStep s.takeTurn := by
  simp [step, stepNext, hf, ha, agentStep]

/-- Giving a turn leaves the bytes still to deliver. -/
@[simp] theorem State.takeTurn_pending (s : State) : s.takeTurn.pending = s.pending := rfl

/-- In Idle a stream cut inside a command is refused, the position counted in the whole stream (R75). -/
theorem hostStep_truncated {s : State} {k : Nat} (hp : s.phase = .idle) (h : decodeCommand s.pending = .truncated k) :
    hostStep s = .refused (.truncated (s.hostPos + k)) := by
  have hne : s.pending ≠ [] := by
    intro hnil
    simp [hnil, decodeCommand] at h
  simp [hostStep, hne, hp, h]

/-- In Idle a reserved opcode is taken off the stream and raises `IllegalCommand` (R74). -/
theorem hostStep_illegal {s : State} {op : Byte} {bs : List Byte} (hp : s.phase = .idle)
    (h : decodeCommand s.pending = .illegal op bs) :
    hostStep s = .next ((s.deliver 1).raise (.illegalCommand op)) := by
  have hne : s.pending ≠ [] := by
    intro hnil
    simp [hnil, decodeCommand] at h
  simp [hostStep, hne, hp, h]

/-! ## The registers a micro-step reaches -/

/-- The register a port read's event reaches is the one its select key decodes to (R76, R77). -/
theorem select_read (dlab : Bool) (off : Offset) (v : Byte) :
    (Event.r (portAddr off) v).select dlab = decodeSelect (selectKey dlab false off) := by
  simp [Event.select, offsetOf_portAddr]

/-- Every micro-step's transaction matches a row of R77, if DLAB is set in the window (R83). -/
theorem microEvents_select_isSome {s : State} {dlab : Bool} (hw : s.phase.inWindow = true → dlab = true) :
    ∀ e ∈ s.microEvents, (e.select dlab).isSome = true := by
  cases hp : s.phase <;> simp only [hp, Phase.inWindow, reduceCtorEq, true_implies] at hw
  case rst0 | rst1 | rst3 | send => simp [State.microEvents, hp, select_write]
  case rst2 => simp [State.microEvents, hp, select_write, hw]
  case poll => simp [State.microEvents, hp, select_read]
  case idle => simp [State.microEvents, hp]

end Sys2Proof.Machine

namespace Sys2Proof.Safety

open Sys2Proof.Machine

/-! ## A transmit command with its answers listed -/

/-- The reads of a Poll phase: not-ready answers, and then the first ready one (R149). -/
theorem pollEvents_eq_some {as left : List Byte} {es : List Event} (h : pollEvents as = some (es, left)) :
    ∃ us a, as = us ++ a :: left ∧ (∀ u ∈ us, ready u = false) ∧ ready a = true ∧
      es = (us ++ [a]).map (Event.r 0x3FD#16) := by
  induction as generalizing es with
  | nil => simp [pollEvents] at h
  | cons a as ih =>
    cases hr : ready a with
    | true =>
      obtain ⟨rfl, rfl⟩ : [Event.r (portAddr Config.offLsr) a] = es ∧ as = left := by
        simpa [pollEvents, hr] using h
      exact ⟨[], a, rfl, by simp, hr, rfl⟩
    | false =>
      obtain ⟨es', hes, rfl⟩ : ∃ es', pollEvents as = some (es', left) ∧
          Event.r (portAddr Config.offLsr) a :: es' = es := by
        simpa [pollEvents, hr] using h
      obtain ⟨us, b, rfl, hus, hb, rfl⟩ := ih hes
      exact ⟨a :: us, b, rfl, by simpa [hr] using hus, hb, rfl⟩

/-- The events of a command with a byte to send: that byte's reads, its write, and the events of the other bytes
(R153). -/
theorem transmitEvents_cons_eq_some {b : Byte} {bs as left : List Byte} {es : List Event}
    (h : transmitEvents (b :: bs) as = some (es, left)) :
    ∃ rs later fs, pollEvents as = some (rs, later) ∧ transmitEvents bs later = some (fs, left) ∧
      es = rs ++ .w (portAddr Config.offData) b :: fs := by
  unfold transmitEvents at h
  split at h
  · cases h
  · rename_i rs later hrs
    split at h
    · cases h
    · rename_i fs left' hfs
      cases h
      exact ⟨rs, later, fs, hrs, hfs, rfl⟩

/-- The events for joined byte strings are those for the first and then those for the second (R73). -/
theorem transmitEvents_append {xs ys as left : List Byte} {es : List Event}
    (h : transmitEvents (xs ++ ys) as = some (es, left)) :
    ∃ es₁ mid es₂, transmitEvents xs as = some (es₁, mid) ∧ transmitEvents ys mid = some (es₂, left) ∧
      es = es₁ ++ es₂ := by
  induction xs generalizing as es with
  | nil => exact ⟨[], as, es, rfl, h, rfl⟩
  | cons x xs ih =>
    obtain ⟨rs, later, fs, hrs, hfs, rfl⟩ := transmitEvents_cons_eq_some h
    obtain ⟨fs₁, mid, es₂, h₁, h₂, rfl⟩ := ih hfs
    refine ⟨rs ++ .w (portAddr Config.offData) x :: fs₁, mid, es₂, ?_, h₂, ?_⟩
    · simp [transmitEvents, hrs, h₁]
    · simp

/-- The state `t` at the end of a transmit command admitted in state `s`: Idle again, the events `es` appended, the
answers `left` not used (R152, R153). -/
structure Transmitted (s : State) (es : List Event) (left : List Byte) (t : State) : Prop where
  trace : t.trace = s.trace ++ es
  phase : t.phase = .idle
  rest : t.rest = []
  fault : t.fault = none
  answers : t.lsrIn = left
  cache : t.lcr = s.lcr
  config : t.cfg = s.cfg
  turns : t.sched = s.sched.drop es.length

/-- The turn after the reads of a Poll phase writes the byte in flight, in the oracle model and without a device
(R144). -/
theorem step_send {s : State} {k : Nat} (hf : s.fault = none) (hp : s.phase = .send)
    (hm : s.cfg.device ≠ .reference) (hturns : SequencerTurns (k + 1) s) :
    ∃ d, step s = .next
      { s with
        trace := s.trace ++ [Event.w (portAddr Config.offData) s.cur]
        sched := s.sched.tail
        dev := d }.advance := by
  obtain ⟨hn, hturn, -⟩ := sequencerTurns_succ hturns
  obtain ⟨d, hd⟩ := portWrite_frame_oracle Config.offData s.cur (s := s.takeTurn) hm
  have hnext : s.sequencerTurn = (s.takeTurn.portWrite Config.offData s.cur).advance := by
    simp [State.sequencerTurn, State.microNext, hp]
  refine ⟨d, ?_⟩
  rw [step_sequencerTurn hn ((microNext_fault_oracle (s := s.takeTurn) hm).trans hf), hnext, hd, hturn]

/-- The block after a byte has been sent, before the next one begins: the reads `rs` and the write appended, the answers
`later` left. -/
def afterByte (rs : List Event) (later : List Byte) (d : Uart) (s : State) : State :=
  { s with
    phase := .send
    trace := s.trace ++ (rs ++ [.w (portAddr Config.offData) s.cur])
    lsrIn := later
    sched := s.sched.drop (rs.length + 1)
    dev := d }

/-- The turns of one byte with its answers listed: its reads and its write (R149, R153). -/
theorem runSteps_byte {s : State} {rs : List Event} {later : List Byte} (hf : s.fault = none) (hp : s.phase = .poll)
    (hm : s.cfg.device ≠ .reference) (hrs : pollEvents s.lsrIn = some (rs, later))
    (hturns : SequencerTurns (rs.length + 1) s) :
    ∃ d, runSteps (rs.length + 1) s = .next (afterByte rs later d s).advance := by
  obtain ⟨us, a, hs, hus, ha, rfl⟩ := pollEvents_eq_some hrs
  rw [List.length_map, List.length_append, List.length_singleton] at hturns ⊢
  have hreads := runSteps_until_ready hf hp hm hs hus ha (sequencerTurns_of_add hturns)
  obtain ⟨d, hd⟩ := step_send (k := 0) (s := afterReads .send (us ++ [a]) later s) hf rfl hm
    (sequencerTurns_of_drop hturns (by simp [afterReads]))
  refine ⟨d, ?_⟩
  rw [runSteps_add _ 1 hreads, runSteps_of_step 0 hd]
  simp [afterByte, afterReads]

/-- From Poll a block with its answers listed sends the byte in flight and the rest, in as many steps as there are
events (R145, R153). -/
theorem runSteps_transmit {b : Byte} {bs left : List Byte} {s : State} {es : List Event} (hf : s.fault = none)
    (hp : s.phase = .poll) (hc : s.cur = b) (hr : s.rest = bs) (hm : s.cfg.device ≠ .reference)
    (hev : transmitEvents (b :: bs) s.lsrIn = some (es, left)) (hturns : SequencerTurns es.length s) :
    ∃ t, runSteps es.length s = .next t ∧ Transmitted s es left t := by
  induction bs generalizing s b es with
  | nil =>
    obtain ⟨rs, later, fs, hrs, hfs, rfl⟩ := transmitEvents_cons_eq_some hev
    cases hfs
    rw [List.length_append] at hturns ⊢
    obtain ⟨d, hd⟩ := runSteps_byte hf hp hm hrs hturns
    obtain ⟨htrace, hfault, hcache, hcfg, hanswers, -, -, -, hsched⟩ := advance_frame (afterByte rs left d s)
    obtain ⟨hphase, hrest⟩ := advance_last (s := afterByte rs left d s) hr
    exact ⟨_, hd,
      { trace := hc ▸ htrace
        phase := hphase
        rest := hrest
        fault := hfault.trans hf
        answers := hanswers
        cache := hcache
        config := hcfg
        turns := by rw [hsched, List.length_append]; rfl }⟩
  | cons b' bs ih =>
    obtain ⟨rs, later, fs, hrs, hfs, rfl⟩ := transmitEvents_cons_eq_some hev
    have hlen : (rs ++ Event.w (portAddr Config.offData) b :: fs).length = rs.length + 1 + fs.length := by
      rw [List.length_append, List.length_cons]; omega
    rw [hlen] at hturns ⊢
    obtain ⟨d, hd⟩ := runSteps_byte hf hp hm hrs (sequencerTurns_of_add hturns)
    rw [advance_more (s := afterByte rs later d s) hr] at hd
    obtain ⟨t, ht, hdone⟩ := ih (s := { afterByte rs later d s with cur := b', rest := bs, phase := .poll })
      hf rfl rfl rfl hm hfs (sequencerTurns_of_drop hturns rfl)
    exact ⟨t, (runSteps_add _ _ hd).trans ht,
      { hdone with
        trace := by rw [hdone.trace]; simp [afterByte, hc]
        turns := by rw [hdone.turns, hlen]; exact List.drop_drop }⟩

/-- A WRITE admitted in Idle, its answers listed, runs to completion in as many steps as it has events (R145, R147,
R153). -/
theorem exec_write_runs {bytes left : List Byte} {s : State} {es : List Event} (hf : s.fault = none)
    (hp : s.phase = .idle) (hr : s.rest = []) (hm : s.cfg.device ≠ .reference)
    (hev : transmitEvents bytes s.lsrIn = some (es, left)) (hturns : SequencerTurns es.length s) :
    ∃ a t, exec (.write bytes) s = .next a ∧ runSteps es.length a = .next t ∧ Transmitted s es left t := by
  have hadmit : exec (.write bytes) s = .next (s.beginBytes bytes) := admission_idle hf hp
  cases bytes with
  | nil =>
    cases hev
    exact ⟨s, s, hadmit, rfl, by simp, hp, hr, hf, rfl, rfl, rfl, rfl⟩
  | cons b bs =>
    obtain ⟨t, ht, hdone⟩ := runSteps_transmit (s := s.beginBytes (b :: bs)) hf rfl rfl rfl hm hev hturns
    exact ⟨_, t, hadmit, ht, { hdone with }⟩

end Sys2Proof.Safety
end

section
/-!
PROOFS. The statements of the encodings (30_encoding.md).
-/

namespace Sys2Proof.Encoding

open Sys2Proof.Machine Sys2Proof.Safety

/-- Settles O1: each level's decoder reads an encoding of its level back. -/
theorem encodeDecodeRoundTrip : Obligations.EncodeDecodeRoundTrip := by
  intro i tail hw
  cases hl : i.level with
  | command => exact decodeCommand_encode tail hw hl
  | bus => exact decodeBus_encode tail hl

/-- Settles O2: each branch of the decoder that reads a command has found the bytes of that command's encoding. -/
theorem decodedBytesAreTheEncoding : Obligations.DecodedBytesAreTheEncoding := by
  intro bs rest i h
  obtain ⟨hw, hbs⟩ := encode_of_decodeCommand h
  exact ⟨hw, decodeCommand_level h, hbs⟩

/-- Settles O3: the whole commands decode one by one, and then the end of the stream or the cut command. -/
theorem streamDecodesOrIsTruncated : Obligations.StreamDecodesOrIsTruncated := by
  intro is his
  refine ⟨?_, fun i k hw hl h0 hk => ?_⟩
  · obtain ⟨fuel, -, hstream⟩ := decodeStream_encode [] his
    simpa using hstream
  · obtain ⟨fuel, hfuel, hstream⟩ := decodeStream_encode ((encode i).take k) his
    rw [List.length_take_of_le hk.le] at hfuel
    obtain ⟨n, rfl⟩ : ∃ n, fuel = n + 1 := Nat.exists_eq_add_one.mpr (h0.trans_le hfuel)
    rw [hstream, decodeStreamFrom, decodeCommand_encode_take hw hl h0 hk]
    exact streamPrepend_truncated is _

/-- Settles O17: the host's step asks the decoder, which names the first missing byte. -/
theorem truncatedDeliveryRefused : Obligations.TruncatedDeliveryRefused := by
  intro s i k hf ha hp hw hl h0 hk hpend
  have hcut : decodeCommand s.takeTurn.pending = .truncated k := by
    rw [State.takeTurn_pending, hpend, decodeCommand_encode_take hw hl h0 hk]
  exact (step_host hf ha).trans (hostStep_truncated hp hcut)

/-- Settles O44: each WRITE runs to completion, and the events of the joined bytes are the joined events. -/
theorem writesBackToBack : Obligations.WritesBackToBack := by
  intro xs ys s es left hf hp hr hm hev hturns
  obtain ⟨c, v, hc, hv, hone⟩ := exec_write_runs hf hp hr hm hev hturns
  obtain ⟨es₁, mid, es₂, hxs, hys, rfl⟩ := transmitEvents_append hev
  rw [List.length_append] at hturns
  obtain ⟨a, t, ha, ht, hfst⟩ := exec_write_runs hf hp hr hm hxs (sequencerTurns_of_add hturns)
  obtain ⟨b, u, hb, hu, hsnd⟩ := exec_write_runs (s := t) hfst.fault hfst.phase hfst.rest (by rwa [hfst.config])
    (by rwa [hfst.answers]) (sequencerTurns_of_drop hturns hfst.turns)
  refine ⟨es₁.length, es₂.length, a, t, b, u, c, v, by simp, ha, ht, hb, hu, hc, hv, ?_, hsnd.phase, hone.phase, ?_⟩
  · rw [hsnd.trace, hfst.trace, hone.trace, List.append_assoc]
  · rw [hsnd.answers, hone.answers]

/-- Settles O53: under the invariant a micro-step raises no fault, and DLAB is set in the window, as Rst2 needs. -/
theorem sequencerIssuesDecodedSelects : Obligations.SequencerIssuesDecodedSelects := by
  intro d s t h hst ha
  obtain ⟨-, hf⟩ := h.step_sequencer ha hst
  refine ⟨hf, fun es hes e he => ?_⟩
  have hevents := List.append_cancel_left (hes.symm.trans (step_events hst))
  rw [if_pos ha] at hevents
  have he' : e ∈ s.takeTurn.microEvents := hevents ▸ he
  have hk := h.takeTurn
  exact ⟨microEvents_select_isSome hk.window e he',
    fun hd => microEvents_select_isSome (fun hw => (hk.scanDlab hd).symm.trans (hk.window hw)) e he'⟩

/-- Settles O60: two digits rule out the other forms of an immediate, and the digits end where the other text begins. -/
theorem assemblerRefusesLargeImmediates : Obligations.AssemblerRefusesLargeImmediates := by
  refine ⟨fun ds after hds hafter hlarge => ?_, fun ds after hds hafter hlarge => ?_⟩
  · have hdigits := takeWhile_digits hds hafter
    obtain ⟨c, c', cs, rfl⟩ := two_digits_of_large hlarge
    rw [List.cons_append, List.cons_append] at hdigits ⊢
    rw [parseImm_decimal (hds c (by simp)) (hds c' (by simp)), hdigits, immediate_large _ hlarge]
  · have hdigits := takeWhile_digits (p := fun c => (hexValue c).isSome) (after := after) hds
      fun c hc => by simp [hafter c hc]
    obtain ⟨c, c', cs, rfl⟩ := two_digits_of_large hlarge
    rw [parseImm_hex (by rw [hdigits]; simp), hdigits, immediate_large _ hlarge]

/-- Settles O4: the decoder stops at the first byte of the stream. -/
theorem reservedOpcodesAreIllegal : Obligations.ReservedOpcodesAreIllegal := by
  intro op bs hop
  have hd := decodeCommand_reserved bs hop
  exact ⟨hd, by rw [decodeStream, List.length_cons, decodeStreamFrom, hd]⟩

/-- Settles O5: ten closed evaluations of the decoders. -/
theorem specWordsDecode : Obligations.SpecWordsDecode := by
  unfold Obligations.SpecWordsDecode
  decide

/-- Settles O6: the 32 select keys, each looked up in the table. -/
theorem selectKeysDecodeAsTabled : Obligations.SelectKeysDecodeAsTabled := by
  unfold Obligations.SelectKeysDecodeAsTabled
  decide

/-- Settles O16: the host's step asks the decoder, which answers illegal. -/
theorem illegalOpcodeFaults : Obligations.IllegalOpcodeFaults := by
  intro s op bs hf ha hp hpend hop
  have hd : decodeCommand s.takeTurn.pending = .illegal op bs := by
    rw [State.takeTurn_pending, hpend, decodeCommand_reserved bs hop]
  exact (step_host hf ha).trans (hostStep_illegal hp hd)

end Sys2Proof.Encoding
end

section
/-!
PROOFS. What a bus transaction changes behind the port bus (40_register_access.md): the offset of a write decides which
device register it can reach.
-/

namespace Sys2Proof

/-! ## The offset of each register (R77) -/

/-- The one offset whose write reaches LCR (R101). -/
theorem decodeSelect_write_eq_wrLcr (d : Bool) (off : Offset) :
    decodeSelect (selectKey d true off) = some .wrLcr ↔ off = Config.offLcr := by
  revert d off; decide

/-- The one offset whose write reaches DLM, and the DLAB state it takes (R103). -/
theorem decodeSelect_write_eq_wrDlm (d : Bool) (off : Offset) :
    decodeSelect (selectKey d true off) = some .wrDlm ↔ d = true ∧ off = Config.offDlm := by
  revert d off; decide

/-- A write reaches DLL at offset 0 with DLAB set (R102). -/
theorem decodeSelect_write_eq_wrDll (d : Bool) (off : Offset) :
    decodeSelect (selectKey d true off) = some .wrDll ↔ d = true ∧ off = Config.offData := by
  revert d off; decide

/-- A write reaches the data register at offset 0 with DLAB clear (R104). -/
theorem decodeSelect_write_eq_wrThr (d : Bool) (off : Offset) :
    decodeSelect (selectKey d true off) = some .wrThr ↔ d = false ∧ off = Config.offData := by
  revert d off; decide

end Sys2Proof

namespace Sys2Proof.Machine

/-! ## The device registers a port write reaches -/

@[simp] theorem portWrite_draws (off : Offset) (v : Byte) (s : State) : (s.portWrite off v).draws = s.draws := by
  obtain ⟨d, f, h⟩ := portWrite_frame off v s
  rw [h]

/-- What a write leaves in the device is what it held or the new registers (R63, R173). -/
theorem stored_cases (d : Uart) (s : State) : s.stored d = s.dev ∨ s.stored d = d := by
  unfold State.stored
  split
  · exact .inl rfl
  · exact .inr rfl

/-- What a byte that reaches the data register can change there: THR, and in the reference device model THRE and the
wire with it (R43, R104). -/
theorem acceptByte_dev_cases (v : Byte) (s : State) :
    (s.acceptByte v).dev = s.dev ∨ (s.acceptByte v).dev = { s.dev with thr := v } ∨
      (s.acceptByte v).dev = { s.dev with thr := v, thre := false, wire := s.dev.wire ++ [v] } := by
  unfold State.acceptByte
  split
  · exact .inl rfl
  · exact .inr (.inl rfl)
  · split
    · exact .inr (.inr rfl)
    · exact .inl rfl

/-- Everything a port write can do to the device's registers: nothing, or a write of the register its offset reaches
(R101 to R104). -/
theorem portWrite_dev_cases (off : Offset) (v : Byte) (s : State) :
    (s.portWrite off v).dev = s.dev ∨
      (off = Config.offLcr ∧ (s.portWrite off v).dev = { s.dev with lcr := v }) ∨
      (off = Config.offDlm ∧ (s.portWrite off v).dev = { s.dev with dlm := v }) ∨
      (off = Config.offData ∧
        ((s.portWrite off v).dev = { s.dev with dll := v } ∨ (s.portWrite off v).dev = { s.dev with thr := v } ∨
          (s.portWrite off v).dev = { s.dev with thr := v, thre := false, wire := s.dev.wire ++ [v] })) := by
  unfold State.portWrite State.deviceWrite
  rw [State.record_dlab]
  split
  case h_1 hsel =>
    rw [decodeSelect_write_eq_wrLcr] at hsel
    exact (stored_cases _ _).imp_right fun hd => .inl ⟨hsel, hd⟩
  case h_2 hsel =>
    obtain ⟨-, hoff⟩ := (decodeSelect_write_eq_wrDll _ _).mp hsel
    exact (stored_cases _ _).imp_right fun hd => .inr (.inr ⟨hoff, .inl hd⟩)
  case h_3 hsel =>
    obtain ⟨-, hoff⟩ := (decodeSelect_write_eq_wrDlm _ _).mp hsel
    exact (stored_cases _ _).imp_right fun hd => .inr (.inl ⟨hoff, hd⟩)
  case h_4 hsel =>
    obtain ⟨-, hoff⟩ := (decodeSelect_write_eq_wrThr _ _).mp hsel
    exact (acceptByte_dev_cases v _).imp_right fun hd => .inr (.inr ⟨hoff, .inr hd⟩)
  case h_5 => exact .inl rfl
  case h_6 =>
    unfold State.unmodelledAccess
    split <;> exact .inl rfl

/-- Only a write of offset 3 changes LCR, and DLAB with it (R101). -/
theorem portWrite_keeps_lcr {off : Offset} (v : Byte) (s : State) (h : off ≠ Config.offLcr) :
    (s.portWrite off v).dev.lcr = s.dev.lcr := by
  obtain hd | ⟨hoff, -⟩ | ⟨-, hd⟩ | ⟨-, hd | hd | hd⟩ := portWrite_dev_cases off v s
  case inr.inl => exact absurd hoff h
  all_goals rw [hd]

/-- Only a write of offset 1 changes DLM (R103). -/
theorem portWrite_keeps_dlm {off : Offset} (v : Byte) (s : State) (h : off ≠ Config.offDlm) :
    (s.portWrite off v).dev.dlm = s.dev.dlm := by
  obtain hd | ⟨-, hd⟩ | ⟨hoff, -⟩ | ⟨-, hd | hd | hd⟩ := portWrite_dev_cases off v s
  case inr.inr.inl => exact absurd hoff h
  all_goals rw [hd]

/-- Only a write of offset 0 changes DLL, THR, THRE and the wire (R102, R104). -/
theorem portWrite_keeps_data {off : Offset} (v : Byte) (s : State) (h : off ≠ Config.offData) :
    (s.portWrite off v).dev.dll = s.dev.dll ∧ (s.portWrite off v).dev.thr = s.dev.thr ∧
      (s.portWrite off v).dev.thre = s.dev.thre ∧ (s.portWrite off v).dev.wire = s.dev.wire := by
  obtain hd | ⟨-, hd⟩ | ⟨-, hd⟩ | ⟨hoff, -⟩ := portWrite_dev_cases off v s
  case inr.inr.inr => exact absurd hoff h
  all_goals simp [hd]

/-- In the reference device model a byte that finds THRE clear raises the hazard and is lost (R104, R171). -/
theorem acceptByte_overrun (v : Byte) {s : State} (h : s.cfg.device = .reference) (ht : s.dev.thre = false) :
    s.acceptByte v = s.raise (.thrOverrunHazard v) := by
  simp [State.acceptByte, h, ht]

/-! ## What a bus transaction can do -/

/-- Everything a bus transaction can do when it answers a next state: the read of LSR, or a port write at an offset
that belongs to its own register (R100 to R105). -/
theorem exec_bus_next {i : Instr} {s t : State} (hl : i.level = .bus) (h : exec i s = .next t) :
    s.fault = none ∧
      ((i = .rdLsr ∧ t = s.portRead Config.offLsr) ∨
        ∃ off v, i ≠ .rdLsr ∧ t = s.portWrite off v ∧ (off = Config.offLcr → i = .wrLcr v) ∧
          (off = Config.offDlm → i = .wrDlm v) ∧ (off = Config.offData → i = .wrDll v ∨ i = .wrThr v)) := by
  cases i with
  | wrLcr v =>
    exact (transact_next h).imp_right fun ht => .inr ⟨Config.offLcr, v, by simp, ht, fun _ => rfl, nofun, nofun⟩
  | wrDll v =>
    exact (transact_next h).imp_right fun ht => .inr ⟨Config.offDll, v, by simp, ht, nofun, nofun, fun _ => .inl rfl⟩
  | wrDlm v =>
    exact (transact_next h).imp_right fun ht => .inr ⟨Config.offDlm, v, by simp, ht, nofun, fun _ => rfl, nofun⟩
  | wrThr v =>
    exact (transact_next h).imp_right fun ht => .inr ⟨Config.offData, v, by simp, ht, nofun, nofun, fun _ => .inr rfl⟩
  | rdLsr => exact (transact_next h).imp_right fun ht => .inl ⟨rfl, ht⟩
  | _ => simp [Instr.level] at hl

end Sys2Proof.Machine
end

section
/-!
PROOFS. The statements of register access (40_register_access.md).
-/

namespace Sys2Proof.RegisterAccess

open Sys2Proof.Machine Sys2Proof.Safety

/-- Settles O28: a transaction is the LSR read or one port write, whose offset bounds the registers it reaches. -/
theorem transactionFrame : Obligations.TransactionFrame := by
  intro i s t hl h
  obtain ⟨hf, ⟨rfl, rfl⟩ | ⟨off, v, hread, rfl, hlcr, hdlm, hdata⟩⟩ := exec_bus_next hl h
  · simp [portRead_lsr, hf]
  · refine ⟨portWrite_cfg off v s, portWrite_phase off v s, portWrite_cache off v s, portWrite_cur off v s,
      portWrite_rest off v s, portWrite_hostStream off v s, portWrite_hostPos off v s, portWrite_sched off v s,
      ⟨_, portWrite_trace off v s⟩, fun _ => ⟨portWrite_lsrIn off v s, portWrite_draws off v s⟩,
      fun hi => absurd hi hread, fun hi => ?_, fun hi => ?_, fun hdll hthr => ?_, fun hm => ?_, fun ha => ?_⟩
    · exact portWrite_keeps_lcr v s fun hoff => hi v (hlcr hoff)
    · exact portWrite_keeps_dlm v s fun hoff => hi v (hdlm hoff)
    · exact portWrite_keeps_data v s fun hoff => (hdata hoff).elim (hdll v) (hthr v)
    · have hkeep := (portWrite_transmitter off v s).resolve_right fun ⟨href, _⟩ => hm href
      exact ⟨(portWrite_fault_oracle off v s hm).trans hf, hkeep⟩
    · simp [portWrite_absent off v s ha]

/-- Settles O23: offset 1 is DLM with DLAB set, and no register with DLAB clear. -/
theorem wrDlmEffect : Obligations.WrDlmEffect := by
  intro v s hf
  have hexec : exec (.wrDlm v) s = .next (s.portWrite Config.offDlm v) := transact_ok hf
  have hkey (hd : s.dev.lcr.getLsbD 7 = false) : selectKey s.dlab true Config.offDlm = 0x09#5 :=
    congrArg (selectKey · true Config.offDlm) hd
  rw [hexec]
  refine ⟨fun hd => congrArg _ (portWrite_dlm v s hd), fun hd hm => ?_, fun hd hm => ?_⟩
  · rw [portWrite_unmodelled v (by rw [hkey hd]; decide), hkey hd]
    exact congrArg _ (unmodelledAccess_reference _ _ hm)
  · rw [portWrite_unmodelled v (by rw [hkey hd]; decide)]
    exact congrArg _ (unmodelledAccess_other _ _ hm)

/-- Settles O25: the data register is full, so the reference device model raises the hazard behind the event. -/
theorem thrOverrunFaults : Obligations.ThrOverrunFaults := by
  intro i v s hi hf hd hm ht
  rw [exec_dataWrite hi, transact_ok hf, portWrite_thr v s hd]
  exact congrArg _ (acceptByte_overrun v hm ht)

end Sys2Proof.RegisterAccess
end

section
/-!
PROOFS. The RESET sequence (41_reset_sequence.md): each of its turns, what it leaves behind the port bus, and one whole
RESET from Idle.
-/

namespace Sys2Proof.Machine

/-! ## The turns of the RESET sequence -/

/-- RESET in Idle is admitted: the next micro-step is Rst0 (R121). -/
theorem exec_reset_idle {s : State} (hf : s.fault = none) (hp : s.phase = .idle) :
    exec .reset s = .next (s.goto .rst0) :=
  admission_idle (f := State.goto .rst0) hf hp

@[simp] theorem State.setCache_stored (v : Byte) (d : Uart) (s : State) : (s.setCache v).stored d = s.stored d := rfl

@[simp] theorem sequencerTurn_cfg (s : State) : s.sequencerTurn.cfg = s.cfg := microNext_cfg s.takeTurn

@[simp] theorem sequencerTurn_sched (s : State) : s.sequencerTurn.sched = s.sched.tail := microNext_sched s.takeTurn

/-- The turn in Rst0 in full: the one event, the LCR of a device that is there, and the phase (R122, R173). -/
theorem sequencerTurn_rst0 {s : State} (hp : s.phase = .rst0) :
    s.sequencerTurn =
      { s.takeTurn with
        phase := .rst1
        trace := s.trace ++ [.w (portAddr Config.offLcr) s.cfg.dlabWriteValue]
        dev := s.stored { s.dev with lcr := s.cfg.dlabWriteValue } } := by
  have hnext : s.sequencerTurn = (s.takeTurn.portWrite Config.offLcr s.cfg.dlabWriteValue).goto .rst1 := by
    simp [State.sequencerTurn, State.microNext, hp]
  rw [hnext, portWrite_lcr]
  rfl

section
variable {s : State}

/-- The turn in Rst1 writes DLL of a device whose DLAB is set (R123). -/
theorem sequencerTurn_rst1 (hp : s.phase = .rst1) (hm : s.cfg.device ≠ .absent) (hd : s.dlab = true) :
    s.sequencerTurn.phase = .rst2 ∧ s.sequencerTurn.dev = { s.dev with dll := divisorLow s.cfg } := by
  simp [State.sequencerTurn, State.microNext, hp, portWrite_dll, hd, hm]

/-- The turn in Rst2 writes DLM of a device whose DLAB is set (R124). -/
theorem sequencerTurn_rst2 (hp : s.phase = .rst2) (hm : s.cfg.device ≠ .absent) (hd : s.dlab = true) :
    s.sequencerTurn.phase = .rst3 ∧ s.sequencerTurn.dev = { s.dev with dlm := divisorHigh s.cfg } := by
  simp [State.sequencerTurn, State.microNext, hp, portWrite_dlm, hd, hm]

/-- The turn in Rst3 writes the line format to LCR of a device that is there (R125). -/
theorem sequencerTurn_rst3 (hp : s.phase = .rst3) (hm : s.cfg.device ≠ .absent) :
    s.sequencerTurn.dev = { s.dev with lcr := s.cfg.lcrFormat } := by
  simp [State.sequencerTurn, State.microNext, hp, portWrite_lcr, hm]

end

/-! ## What a RESET leaves behind the port bus -/

/-- The device registers after a RESET sequence: the line format and the divisor where there is a device, and all else
as it was (R127, R173). -/
def State.resetDevice (s : State) : Uart :=
  s.stored { s.dev with lcr := s.cfg.lcrFormat, dll := divisorLow s.cfg, dlm := divisorHigh s.cfg }

/-- A second RESET finds its values in the device and leaves them (R127). -/
theorem resetDevice_eq_dev {s t : State} (hc : t.cfg = s.cfg) (hd : t.dev = s.resetDevice) : t.resetDevice = t.dev := by
  by_cases hm : s.cfg.device = .absent
  · exact State.stored_absent _ (hc ▸ hm)
  · simp [State.resetDevice, hc, hd, hm]

end Sys2Proof.Machine

namespace Sys2Proof.Safety

open Sys2Proof.Machine

/-- Behind the port bus the four turns of the RESET sequence write LCR, DLL, DLM and LCR again: the first write sets
DLAB for the two of the divisor (R120, R127). -/
theorem resetTurns_dev {s : State} (hp : s.phase = .rst0) (hw : opensWindow s.cfg = true) :
    (State.sequencerTurn^[4] s).dev = s.resetDevice := by
  by_cases hm : s.cfg.device = .absent
  · simp [State.resetDevice, State.sequencerTurn, microNext_dev_absent, hm]
  have hp1 : s.sequencerTurn.phase = .rst1 := by rw [sequencerTurn_rst0 hp]
  have h1 : s.sequencerTurn.dev = { s.dev with lcr := s.cfg.dlabWriteValue } := by simp [sequencerTurn_rst0 hp, hm]
  have hd1 : s.sequencerTurn.dlab = true := by rw [State.dlab, h1]; exact hw
  obtain ⟨hp2, h2⟩ := sequencerTurn_rst1 hp1 (by simpa using hm) hd1
  have hd2 : s.sequencerTurn.sequencerTurn.dlab = true := by rw [State.dlab, h2]; exact hd1
  obtain ⟨hp3, h3⟩ := sequencerTurn_rst2 hp2 (by simpa using hm) hd2
  have h4 := sequencerTurn_rst3 hp3 (by simpa using hm)
  simp [State.resetDevice, hm, h1, h2, h3, h4]

/-- Turns of the sequencer leave the configuration and take the listed turns. -/
theorem sequencerTurns_frame (k : Nat) (s : State) :
    (State.sequencerTurn^[k] s).cfg = s.cfg ∧ (State.sequencerTurn^[k] s).sched = s.sched.drop k := by
  induction k with
  | zero => exact ⟨rfl, rfl⟩
  | succ k ih =>
    obtain ⟨hc, hs⟩ := ih
    rw [Function.iterate_succ_apply', sequencerTurn_cfg, sequencerTurn_sched, hc, hs, List.tail_drop]
    exact ⟨rfl, rfl⟩

/-- The state `t` at the end of a RESET admitted in state `s`: Idle again, the cache and the device's registers at the
rule's values, the four events appended (R126, R127). -/
structure ResetDone (s t : State) : Prop where
  phase : t.phase = .idle
  cache : t.lcr = some s.cfg.lcrFormat
  rest : t.rest = s.rest
  fault : t.fault = none
  trace : t.trace = s.trace ++ resetEvents s.cfg
  device : t.dev = s.resetDevice
  config : t.cfg = s.cfg
  turns : t.sched = s.sched.drop 4

/-- A RESET admitted in Idle runs its four turns to the end (R121, R126). -/
theorem exec_reset_runs {s : State} (hf : s.fault = none) (hp : s.phase = .idle) (hw : opensWindow s.cfg = true)
    (hturns : SequencerTurns 4 s) : ∃ a t, exec .reset s = .next a ∧ runSteps 4 a = .next t ∧ ResetDone s t := by
  obtain ⟨hphase, hcache, hrest, hfault, htrace, -, -⟩ := resetTurns (s := s.goto .rst0) rfl hf hw
  obtain ⟨hcfg, hsched⟩ := sequencerTurns_frame 4 (s.goto .rst0)
  exact ⟨s.goto .rst0, _, exec_reset_idle hf hp, runSteps_sequencerTurns 4 hturns hfault,
    { phase := hphase
      cache := hcache
      rest := hrest
      fault := hfault
      trace := htrace
      device := resetTurns_dev rfl hw
      config := hcfg
      turns := hsched }⟩

end Sys2Proof.Safety
end

section
/-!
PROOFS. The statements of the RESET sequence (41_reset_sequence.md).
-/

namespace Sys2Proof.ResetSequence

open Sys2Proof.Machine Sys2Proof.Safety

/-- Settles O20: a host command raises `BusyViolation`, starts a RESET, does nothing or begins to send its bytes. -/
theorem commandFrame : Obligations.CommandFrame := by
  intro i s t hl h
  obtain ⟨hf, ⟨hp, rfl⟩ | ⟨hp, -, rfl⟩ | ⟨hp, hi, rfl⟩ | ⟨hp, hi, b, bs, rfl⟩⟩ := exec_command_cases hl h
  · simp [hp]
  · simp [hp, hf]
  · simp [hp, hf]
  · simp [hp, hf, hi]

/-- Settles O37: the four turns raise no fault, and the values they leave are the rule's. -/
theorem resetSequence : Obligations.ResetSequence := by
  intro s hf hp hw hturns
  obtain ⟨hphase, hcache, hrest, hfault, htrace, -, hanswers⟩ := resetTurns hp hf hw
  refine ⟨_, runSteps_sequencerTurns 4 hturns hfault, htrace, hphase, hcache, hrest, hfault, hanswers, ?_⟩
  rw [resetTurns_dev hp hw]
  by_cases hm : s.cfg.device = .absent
  · simp [State.resetDevice, hm]
  · simp [State.resetDevice, hm, divisorLow, divisorHigh, lowByte, highByte]

/-- Settles O40: the second RESET starts from the values of the first, which are its own. -/
theorem resetIsIdempotent : Obligations.ResetIsIdempotent := by
  intro s hf hp hr hw hturns
  obtain ⟨a, t, ha, ht, tdone⟩ := exec_reset_runs hf hp hw (sequencerTurns_of_add (n := 4) hturns)
  obtain ⟨b, u, hb, hu, udone⟩ := exec_reset_runs tdone.fault tdone.phase (tdone.config ▸ hw)
    (sequencerTurns_of_drop hturns tdone.turns)
  have hdev : u.dev = t.dev := udone.device.trans (resetDevice_eq_dev tdone.config tdone.device)
  have hcache : u.lcr = t.lcr := by rw [udone.cache, tdone.config, tdone.cache]
  refine ⟨a, t, b, u, ha, ht, hb, hu, fun hm => ?_, tdone.cache, tdone.phase, tdone.rest.trans hr, tdone.fault,
    congrArg Uart.lcr hdev, congrArg Uart.dll hdev, congrArg Uart.dlm hdev, hcache,
    udone.phase.trans tdone.phase.symm, udone.rest, udone.fault.trans tdone.fault.symm, tdone.trace,
    tdone.config ▸ udone.trace⟩
  simp [tdone.device, State.resetDevice, hm]

/-- Settles O9: RESET's admission step sets the phase. -/
theorem resetAdmission : Obligations.ResetAdmission := by
  intro s hf hp
  exact exec_reset_idle hf hp

/-- Settles O31: the LCR write cannot fault, so the step is the whole turn in Rst0. -/
theorem rst0Step : Obligations.Rst0Step := by
  intro s hf ha hp
  have hnext := sequencerTurn_rst0 hp
  rw [step_sequencerTurn ha (by simpa [hnext] using hf), hnext]
  rfl

end Sys2Proof.ResetSequence
end

section
/-!
PROOFS. A transmit command on any run (42_transmit.md): what a data write leaves behind the port bus, what a step of a
busy block appends and what is left to send, and why a run with ready answers comes back to Idle.
-/

namespace Sys2Proof.Machine

/-! ## A data write -/

section
variable {s : State}

/-- With DLAB clear, if there is a device, a data write leaves DLL (R102, R104, R173). -/
theorem dataWrite_keeps_dll (v : Byte) (hd : s.cfg.device ≠ .absent → s.dlab = false) :
    (s.portWrite Config.offData v).dev.dll = s.dev.dll := by
  by_cases ha : s.cfg.device = .absent
  · simp [portWrite_absent _ v s ha]
  · rw [portWrite_thr v s (hd ha)]
    obtain h | h | h := acceptByte_dev_cases v (s.record (.w (portAddr Config.offData) v)) <;> simp [h]

/-- In the reference device model a data write with DLAB clear and THRE set goes to the wire (R43, R104). -/
theorem dataWrite_dev_reference (v : Byte) (hm : s.cfg.device = .reference) (hd : s.dlab = false)
    (ht : s.dev.thre = true) :
    (s.portWrite Config.offData v).dev = { s.dev with thr := v, thre := false, wire := s.dev.wire ++ [v] } := by
  rw [portWrite_thr v s hd, acceptByte_reference (s := s.record _) v hm ht]
  rfl

/-- The turn in Send: the write of the byte in flight, and the end of that byte (R144). -/
theorem sequencerTurn_send (hp : s.phase = .send) :
    s.sequencerTurn = (s.takeTurn.portWrite Config.offData s.cur).advance := by
  simp [State.sequencerTurn, State.microNext, hp]

/-- The turn in Poll: one read, and Send exactly if its value is ready (R143). -/
theorem sequencerTurn_poll (hp : s.phase = .poll) :
    s.sequencerTurn = (s.takeTurn.portRead Config.offLsr).goto
      (if ready (s.takeTurn.readValue Config.offLsr) then .send else .poll) := by
  simp [State.sequencerTurn, State.microNext, hp]

/-! ## Whose step it was -/

/-- A sequencer's step that leaves no fault is the whole turn (R100, R172). -/
theorem eq_sequencerTurn_of_step {t : State} (ha : s.nextAgent = .sequencer) (h : step s = .next t)
    (hf : t.fault = none) : t = s.sequencerTurn := by
  obtain ⟨hn, -⟩ | ⟨-, hs⟩ | ⟨hn, -⟩ := step_cases h
  · simp [ha] at hn
  · obtain rfl | ⟨e, r, -, rfl⟩ := sequencerStep_cases hs
    · rfl
    · simp at hf
  · simp [ha] at hn

/-- How long the sequencer can be kept waiting: the listed turns, and after them an enabled drain step (R177; log 4). -/
def State.turnsAhead (s : State) : Nat := s.sched.length + s.drainEnabled.toNat

/-- A drain step leaves nothing to drain (R43). -/
@[simp] theorem drain_drainEnabled (s : State) : s.drain.drainEnabled = false := by
  unfold State.drain
  split_ifs with hd
  · simp [State.drainEnabled]
  · simpa using hd

/-- The drain step leaves what is to be sent (R43). -/
theorem drain_bytes (s : State) : s.drain.cur = s.cur ∧ s.drain.rest = s.rest := by
  obtain h | ⟨-, -, h⟩ := drain_cases s <;> simp [h]

/-- With no turn listed, only an enabled drain step can keep the sequencer of a busy block waiting (R177; log 4). -/
theorem drainEnabled_of_not_sequencer (ha : s.nextAgent ≠ .sequencer) (hp : s.phase ≠ .idle) (hs : s.sched = []) :
    s.nextAgent = .device ∧ s.drainEnabled = true := by
  have hn : s.nextAgent = if s.drainEnabled && Config.freeDrain s.draws then .device else .sequencer := by
    simp [State.nextAgent, hs, State.owner, hp]
  have hd : (s.drainEnabled && Config.freeDrain s.draws) = true := by
    by_contra hd
    exact ha (hn.trans (if_neg hd))
  exact ⟨hn.trans (if_pos hd), (Bool.and_eq_true_iff.mp hd).1⟩

/-- Giving a listed turn brings the sequencer's next turn closer. -/
theorem turnsAhead_listed {t : State} (h : s.sched ≠ []) (hs : t.sched = s.sched.tail)
    (hd : t.drainEnabled = s.drainEnabled) : t.turnsAhead < s.turnsAhead := by
  have hpos := List.length_pos_iff.mpr h
  rw [State.turnsAhead, State.turnsAhead, hs, hd, List.length_tail]
  omega

/-- A drain step brings the sequencer's next turn closer where it is enabled or its turn was listed. -/
theorem turnsAhead_drain (h : s.sched ≠ [] ∨ s.drainEnabled = true) : s.takeTurn.drain.turnsAhead < s.turnsAhead := by
  simp only [State.turnsAhead, drain_frame, drain_drainEnabled, State.takeTurn_sched, Bool.toNat_false]
  cases hs : s.sched with
  | nil => simp [h.resolve_left (absurd hs)]
  | cons a as => simp; omega

/-- A turn of the host or of the device in a busy block leaves what is to be sent and appends no event, and brings the
sequencer's next turn closer (R151, R177, R181). -/
theorem step_of_not_sequencer {t : State} (ha : s.nextAgent ≠ .sequencer) (hp : s.phase ≠ .idle)
    (h : step s = .next t) :
    t.phase = s.phase ∧ t.cur = s.cur ∧ t.rest = s.rest ∧ t.trace = s.trace ∧ t.turnsAhead < s.turnsAhead := by
  have hwait := drainEnabled_of_not_sequencer ha hp
  obtain ⟨hn, hs⟩ | ⟨hn, -⟩ | ⟨-, rfl⟩ := step_cases h
  · obtain ⟨n, f, rfl | ⟨hi, -⟩⟩ := hostStep_changes hs
    · have hlisted : s.sched ≠ [] := fun hnil => by simpa [hn] using hwait hnil
      exact ⟨rfl, rfl, rfl, rfl, turnsAhead_listed hlisted rfl rfl⟩
    · exact absurd hi hp
  · exact absurd hn ha
  · exact ⟨by simp [drain_frame], by simp [drain_bytes], by simp [drain_bytes], by simp,
      turnsAhead_drain (or_iff_not_imp_left.mpr fun hs => (hwait (not_not.mp hs)).2)⟩

end

end Sys2Proof.Machine

namespace Sys2Proof.Safety

open Sys2Proof.Machine

/-! ## Counting the events of a trace -/

@[simp] theorem writtenBytes_nil : writtenBytes [] = [] := rfl

@[simp] theorem writtenBytes_append (es fs : List Event) :
    writtenBytes (es ++ fs) = writtenBytes es ++ writtenBytes fs :=
  List.filterMap_append

@[simp] theorem writtenBytes_write (p : Port) (v : Byte) (es : List Event) :
    writtenBytes (.w p v :: es) = v :: writtenBytes es := rfl

@[simp] theorem writtenBytes_read (p : Port) (v : Byte) (es : List Event) :
    writtenBytes (.r p v :: es) = writtenBytes es := rfl

@[simp] theorem countWrites_write (p : Port) (v : Byte) (es : List Event) :
    countWrites (.w p v :: es) = countWrites es + 1 := List.countP_cons_of_pos rfl

@[simp] theorem countWrites_read (p : Port) (v : Byte) (es : List Event) :
    countWrites (.r p v :: es) = countWrites es := List.countP_cons_of_neg (by simp [isWrite])

@[simp] theorem countReads_nil : countReads [] = 0 := rfl

@[simp] theorem countReads_append (es fs : List Event) : countReads (es ++ fs) = countReads es + countReads fs :=
  List.countP_append

@[simp] theorem countReads_write (p : Port) (v : Byte) (es : List Event) :
    countReads (.w p v :: es) = countReads es := List.countP_cons_of_neg (by simp [isWrite])

@[simp] theorem countReads_read (p : Port) (v : Byte) (es : List Event) :
    countReads (.r p v :: es) = countReads es + 1 := List.countP_cons_of_pos rfl

/-- There are as many writes as bytes written (R201). -/
theorem countWrites_eq_length (es : List Event) : countWrites es = (writtenBytes es).length := by
  induction es with
  | nil => rfl
  | cons e es ih =>
    cases e with
    | w p v => simp [ih]
    | r p v => simp [ih]

/-- Every event is a read or a write (R201). -/
theorem countReads_add_countWrites (es : List Event) : countReads es + countWrites es = es.length := by
  induction es with
  | nil => rfl
  | cons e es ih =>
    cases e with
    | w p v => simp [← ih, Nat.add_assoc]
    | r p v => simp [← ih, Nat.add_right_comm]

/-- A Poll phase writes nothing and reads at least once (R149). -/
theorem pollEvents_counts {as left : List Byte} {es : List Event} (h : pollEvents as = some (es, left)) :
    writtenBytes es = [] ∧ 1 ≤ countReads es := by
  obtain ⟨us, a, -, -, -, rfl⟩ := pollEvents_eq_some h
  have hus : writtenBytes (us.map (Event.r 0x3FD#16)) = [] := by
    simp [writtenBytes, writtenByte, Function.comp_def]
  simp [hus]

/-- The events of a transmit command write its bytes in order, with at least one read per byte (R148, R153). -/
theorem transmitEvents_counts {bytes as left : List Byte} {es : List Event}
    (h : transmitEvents bytes as = some (es, left)) : writtenBytes es = bytes ∧ bytes.length ≤ countReads es := by
  induction bytes generalizing as es with
  | nil => cases h; exact ⟨rfl, le_rfl⟩
  | cons b bs ih =>
    obtain ⟨rs, later, fs, hrs, hfs, rfl⟩ := transmitEvents_cons_eq_some h
    obtain ⟨hnone, hread⟩ := pollEvents_counts hrs
    obtain ⟨hbytes, hreads⟩ := ih hfs
    refine ⟨by simp [hnone, hbytes], ?_⟩
    rw [countReads_append, countReads_write, List.length_cons]
    omega

/-! ## What is left to send -/

/-- The bytes a block has still to write: the byte in flight and the rest, in Poll and Send (R23). -/
def unsent (s : State) : List Byte := if inTransmit s.phase then s.cur :: s.rest else []

/-- The ready reads a block has made for a byte it has not written: one in Send (R143). -/
def readAhead (s : State) : Nat := if s.phase = .send then 1 else 0

/-- In Idle nothing is left to send (R152). -/
theorem unsent_idle {s : State} (h : s.phase = .idle) : unsent s = [] := by simp [unsent, h, inTransmit]

/-- In Poll and Send the byte in flight is the first one left to send (R23). -/
theorem unsent_busy {s : State} (h : s.phase = .poll ∨ s.phase = .send) : unsent s = s.cur :: s.rest := by
  obtain h | h := h <;> simp [unsent, h, inTransmit]

/-- Outside Send every ready read has had its write (R143). -/
theorem readAhead_of_ne_send {s : State} (h : s.phase ≠ .send) : readAhead s = 0 := if_neg h

/-- A byte written, the rest is left to send (R144, R152). -/
theorem advance_transmit (s : State) :
    s.advance.phase.inReset = false ∧ unsent s.advance = s.rest ∧ readAhead s.advance = 0 := by
  cases hr : s.rest with
  | nil =>
    obtain ⟨hphase, -⟩ := advance_last hr
    exact ⟨by rw [hphase]; rfl, unsent_idle hphase, readAhead_of_ne_send (by simp [hphase])⟩
  | cons b bs =>
    rw [advance_more hr]
    exact ⟨rfl, rfl, rfl⟩

/-- From `s` to `t` a transmit command has appended the events `es`: LSR reads and the writes of the bytes no longer
left to send, with a read for each write and one ahead in Send (R148, R153). -/
structure Sends (s : State) (es : List Event) (t : State) : Prop where
  phase : t.phase.inReset = false
  trace : t.trace = s.trace ++ es
  events : ∀ e ∈ es, ∃ v, e = .w 0x3F8#16 v ∨ e = .r 0x3FD#16 v
  bytes : unsent s = writtenBytes es ++ unsent t
  reads : (writtenBytes es).length + readAhead t ≤ countReads es + readAhead s

/-- Nothing is sent in no step. -/
theorem Sends.refl {s : State} (hp : s.phase.inReset = false) : Sends s [] s where
  phase := hp
  trace := by simp
  events := by simp
  bytes := rfl
  reads := le_rfl

/-- What is sent in two parts. -/
theorem Sends.trans {s t u : State} {es fs : List Event} (h : Sends s es t) (g : Sends t fs u) :
    Sends s (es ++ fs) u where
  phase := g.phase
  trace := by rw [g.trace, h.trace, List.append_assoc]
  events e he := (List.mem_append.mp he).elim (h.events e) (g.events e)
  bytes := by rw [h.bytes, g.bytes, writtenBytes_append, List.append_assoc]
  reads := by
    have hfst := h.reads
    have hsnd := g.reads
    rw [writtenBytes_append, countReads_append, List.length_append]
    omega

/-- The turn in Poll appends a read and keeps what is left to send (R143). -/
theorem sends_poll {s : State} (hp : s.phase = .poll) :
    Sends s [.r 0x3FD#16 (s.takeTurn.readValue Config.offLsr)] s.sequencerTurn := by
  rw [sequencerTurn_poll hp, portRead_lsr]
  have hbytes := unsent_busy (.inl hp)
  split_ifs <;> exact ⟨rfl, rfl, by simp, hbytes, by simp [readAhead]⟩

/-- The turn in Send writes the first byte left to send (R144). -/
theorem sends_send {s : State} (hp : s.phase = .send) : Sends s [.w 0x3F8#16 s.cur] s.sequencerTurn := by
  obtain ⟨hphase, hunsent, hread⟩ := advance_transmit (s.takeTurn.portWrite Config.offData s.cur)
  obtain ⟨htrace, -⟩ := advance_frame (s.takeTurn.portWrite Config.offData s.cur)
  rw [← sequencerTurn_send hp] at hphase hunsent hread htrace
  exact
    { phase := hphase
      trace := htrace.trans (portWrite_trace _ _ _)
      events := by simp
      bytes := by rw [hunsent, unsent_busy (.inr hp), portWrite_rest]; rfl
      reads := by rw [hread, readAhead, if_pos hp]; exact le_add_self }

/-- The two phases of a busy block outside the RESET sequence (R22). -/
theorem poll_or_send {p : Phase} (hr : p.inReset = false) (hi : p ≠ .idle) : p = .poll ∨ p = .send := by
  cases p <;> simp [Phase.inReset] at hr hi ⊢

/-- Whoever moves in a busy block that is not resetting, a step that leaves no fault sends on (R153). -/
theorem sends_step {s t : State} (hr : s.phase.inReset = false) (hi : s.phase ≠ .idle) (h : step s = .next t)
    (hf : t.fault = none) : ∃ es, Sends s es t := by
  by_cases ha : s.nextAgent = .sequencer
  · obtain rfl := eq_sequencerTurn_of_step ha h hf
    obtain hp | hp := poll_or_send hr hi
    · exact ⟨_, sends_poll hp⟩
    · exact ⟨_, sends_send hp⟩
  · obtain ⟨hphase, hcur, hrest, htrace, -⟩ := step_of_not_sequencer ha hi h
    exact ⟨[],
      { phase := by rw [hphase, hr]
        trace := by rw [htrace, List.append_nil]
        events := by simp
        bytes := by simp [unsent, hphase, hcur, hrest]
        reads := by simp [readAhead, hphase] }⟩

/-! ## A transmit command on an infinite run -/

/-- A WRITE admitted in Idle has all its bytes left to send (R145, R147). -/
theorem exec_write_admitted {bytes : List Byte} {s t : State} (hp : s.phase = .idle)
    (h : exec (.write bytes) s = .next t) :
    t.phase.inReset = false ∧ t.trace = s.trace ∧ unsent t = bytes ∧ readAhead t = 0 := by
  obtain ⟨-, ⟨-, rfl⟩ | ⟨hbusy, -⟩⟩ := admission_next (f := State.beginBytes bytes) h
  · obtain ⟨rfl, hs⟩ | ⟨b, bs, rfl, hs⟩ := beginBytes_cases bytes s
    · rw [hs]
      exact ⟨by rw [hp]; rfl, rfl, unsent_idle hp, readAhead_of_ne_send (by simp [hp])⟩
    · rw [hs]
      exact ⟨rfl, rfl, rfl, rfl⟩
  · exact absurd hp hbusy

section
variable {r : Nat → State}

/-- No state of a run is faulted: each has a step (R172). -/
theorem IsRun.fault_none (hrun : IsRun r) (n : Nat) : (r n).fault = none := (step_next (hrun n)).1

/-- While the block is busy, a run that begins outside the RESET sequence sends on (R153). -/
theorem IsRun.sends (hrun : IsRun r) {n : Nat} (hr : (r n).phase.inReset = false) (k : Nat)
    (hbusy : ∀ m, n ≤ m → m < n + k → (r m).phase ≠ .idle) : ∃ es, Sends (r n) es (r (n + k)) := by
  induction k with
  | zero => exact ⟨[], .refl hr⟩
  | succ k ih =>
    obtain ⟨es, hes⟩ := ih fun m hn hk => hbusy m hn (by omega)
    obtain ⟨fs, hfs⟩ := sends_step hes.phase (hbusy (n + k) (by omega) (by omega)) (hrun (n + k)) (hrun.fault_none _)
    exact ⟨es ++ fs, hes.trans hfs⟩

/-- A run that is busy with a transmit command for ever although ready answers keep coming: the assumption that the
completion argument refutes. -/
structure SendsForever (r : Nat → State) : Prop where
  run : IsRun r
  answers : ThreEventually r
  busy : ∀ n, (r n).phase ≠ .idle
  noReset : ∀ n, (r n).phase.inReset = false

/-- In Send the sequencer's turn comes: the listed turns run out, and no drain step follows a drain step (R177). -/
theorem SendsForever.turn_comes (h : SendsForever r) {n : Nat} (hp : (r n).phase = .send) :
    ∃ m, n ≤ m ∧ (r m).phase = .send ∧ (r m).nextAgent = .sequencer := by
  induction hw : (r n).turnsAhead using Nat.strong_induction_on generalizing n with
  | _ w ih =>
    by_cases ha : (r n).nextAgent = .sequencer
    · exact ⟨n, le_rfl, hp, ha⟩
    · obtain ⟨hphase, -, -, -, hlt⟩ := step_of_not_sequencer ha (h.busy n) (h.run n)
      obtain ⟨m, hm, hsend⟩ := ih _ (hw ▸ hlt) (hphase.trans hp) rfl
      exact ⟨m, by omega, hsend⟩

/-- From every point on a byte is written: a Poll phase ends with a ready answer (R202), and then the turn in Send
comes. -/
theorem SendsForever.write_comes (h : SendsForever r) (n : Nat) :
    ∃ m, n ≤ m ∧ (r m).phase = .send ∧ (r m).nextAgent = .sequencer := by
  obtain hp | hp := poll_or_send (h.noReset n) (h.busy n)
  · obtain ⟨m, hm, -, hpoll, ha, hready⟩ := h.answers n hp
    have hturn := eq_sequencerTurn_of_step ha (h.run m) (h.run.fault_none _)
    have hsend : (r (m + 1)).phase = .send := by rw [hturn, sequencerTurn_poll hpoll, if_pos hready]; rfl
    obtain ⟨m', hm', hwrite⟩ := h.turn_comes hsend
    exact ⟨m', by omega, hwrite⟩
  · exact h.turn_comes hp

/-- From every point on there is a later one with fewer bytes left to send. -/
theorem SendsForever.unsent_falls (h : SendsForever r) (n : Nat) :
    ∃ m, (unsent (r m)).length < (unsent (r n)).length := by
  obtain ⟨m, hm, hsend, ha⟩ := h.write_comes n
  obtain ⟨k, rfl⟩ := Nat.exists_eq_add_of_le hm
  obtain ⟨es, hes⟩ := h.run.sends (h.noReset n) k fun m _ _ => h.busy m
  have hturn := eq_sequencerTurn_of_step ha (h.run (n + k)) (h.run.fault_none _)
  refine ⟨n + k + 1, ?_⟩
  rw [hturn, hes.bytes, (sends_send hsend).bytes, writtenBytes_write]
  simp only [List.length_append, List.length_cons]
  omega

/-- No run sends for ever: some point has the fewest bytes left to send (R152, R202). -/
theorem not_sendsForever : ¬ SendsForever r := by
  intro h
  obtain ⟨m, hm⟩ := h.unsent_falls (Function.argmin fun n => (unsent (r n)).length)
  exact Function.not_lt_argmin (fun n => (unsent (r n)).length) m hm

/-- A run that begins outside the RESET sequence and meets THRE_EVENTUALLY comes to Idle, and until then it sends
(R152, R202). -/
theorem IsRun.comes_to_idle (hrun : IsRun r) (hthre : ThreEventually r) (hr : (r 0).phase.inReset = false) :
    ∃ m es, (∀ k, k < m → (r k).phase ≠ .idle) ∧ (r m).phase = .idle ∧ Sends (r 0) es (r m) := by
  have hends : ∃ m, (r m).phase = .idle := by
    by_contra hno
    have hbusy (m : Nat) : (r m).phase ≠ .idle := fun hm => hno ⟨m, hm⟩
    refine not_sendsForever ⟨hrun, hthre, hbusy, fun n => ?_⟩
    obtain ⟨es, hes⟩ := hrun.sends hr n fun m _ _ => hbusy m
    simpa using hes.phase
  have hmin (k : Nat) (hk : k < Nat.find hends) : (r k).phase ≠ .idle := Nat.find_min hends hk
  obtain ⟨es, hes⟩ := hrun.sends hr (Nat.find hends) fun m _ hm => hmin m (by omega)
  exact ⟨_, es, hmin, Nat.find_spec hends, by simpa using hes⟩

end

end Sys2Proof.Safety
end

section
/-!
PROOFS. The statements of the transmit commands (42_transmit.md).
-/

namespace Sys2Proof.Transmit

open Sys2Proof.Machine Sys2Proof.Safety

/-- Settles O43: the WRITE runs byte by byte, each byte's turns being those of its Poll phase and one in Send. -/
theorem writeRunsToCompletion : Obligations.WriteRunsToCompletion := by
  intro bytes s es left hf hp hr hm hev hturns
  obtain ⟨a, t, ha, ht, hdone⟩ := exec_write_runs hf hp hr hm hev hturns
  exact ⟨a, t, ha, ht, hdone.trace, hdone.phase, by simp [State.busy, hdone.phase], hdone.rest, hdone.fault,
    hdone.answers, hdone.cache, hdone.config⟩

/-- Settles O45: listed answers fix the events; on an infinite run every step sends on, and the bytes left run out. -/
theorem transmitCounts : Obligations.TransmitCounts := by
  refine ⟨fun bytes s es left hf hp hr hm hev hturns => ?_, fun bytes s r hp hexec hrun hthre => ?_⟩
  · obtain ⟨a, t, ha, ht, hdone⟩ := exec_write_runs hf hp hr hm hev hturns
    obtain ⟨hbytes, hreads⟩ := transmitEvents_counts hev
    exact ⟨a, t, ha, ht, hdone.phase, hdone.trace, hbytes, hbytes ▸ countWrites_eq_length es, hreads,
      countReads_add_countWrites es⟩
  · obtain ⟨hr, htrace, hunsent, hahead⟩ := exec_write_admitted hp hexec
    obtain ⟨m, es, hbusy, hidle, hes⟩ := hrun.comes_to_idle hthre hr
    have hbytes : writtenBytes es = bytes := by
      rw [← hunsent, hes.bytes, unsent_idle hidle, List.append_nil]
    have hreads : bytes.length ≤ countReads es := by
      simpa [hbytes, hahead, readAhead_of_ne_send (s := r m) (by simp [hidle])] using hes.reads
    exact ⟨m, es, fun k hk => decide_eq_true (hbusy k hk), hidle, htrace ▸ hes.trace, hes.events, hbytes,
      hbytes ▸ countWrites_eq_length es, hreads, countReads_add_countWrites es⟩

/-- Settles O8: the mask has bit 5 only. -/
theorem threTestIsBitFive : Obligations.ThreTestIsBitFive := by
  refine ⟨fun v => ⟨bne_iff_ne, ready_eq v⟩, fun v w h => ?_, ?_⟩
  · rw [ready_eq, ready_eq, h]
  · decide

/-- Settles O10: the admission step begins to send one byte. -/
theorem writeByteAdmission : Obligations.WriteByteAdmission := fun b _ hf hp =>
  admission_idle (f := State.beginBytes [b]) hf hp

/-- Settles O11: the admission step begins to send the bytes, and WRITE_BYTE's is that of a string of one byte. -/
theorem writeAdmission : Obligations.WriteAdmission := fun b bs _ hf hp =>
  ⟨admission_idle (f := State.beginBytes (b :: bs)) hf hp, rfl⟩

/-- Settles O12: with no byte to send the admission step does nothing. -/
theorem emptyWriteChangesNothing : Obligations.EmptyWriteChangesNothing := fun s hf hp =>
  ⟨admission_idle (f := State.beginBytes []) hf hp, by simp [State.busy, hp]⟩

/-- Settles O13: NEWLINE begins to send the configured sequence, as a WRITE of it does. -/
theorem newlineAdmission : Obligations.NewlineAdmission := by
  have hwrite (s : State) : exec .newline s = exec (.write s.cfg.newlineSeq) s := rfl
  refine ⟨hwrite, fun s hf hp hseq => ?_, fun b bs s hf hp hseq => ?_⟩
  · rw [hwrite, hseq]
    exact (emptyWriteChangesNothing s hf hp).1
  · rw [hwrite, hseq]
    exact (writeAdmission b bs s hf hp).1

/-- Settles O19: the sequencer has no micro-step in Idle, and the host nothing to deliver. -/
theorem idleWaits : Obligations.IdleWaits := by
  intro s hf hp
  refine ⟨fun ha => ?_, fun ha hpend => ?_⟩
  · rw [step_sequencer hf ha, sequencerStep, State.takeTurn_phase, hp]
  · rw [step_host hf ha, hostStep, State.takeTurn_pending, if_pos hpend]

/-- Settles O35: with DLAB clear and THRE set the write raises no fault, so the step is the whole turn in Send. -/
theorem sendStep : Obligations.SendStep := by
  intro s hf ha hp hd ht
  obtain ⟨hfault, hlcr⟩ := dataWrite_dev (s := s.takeTurn) s.cur hd ht
  have hnext := sequencerTurn_send hp
  obtain ⟨htrace, hfault', hcache, hcfg, hanswers, hstream, hpos, hdev, -⟩ :=
    advance_frame (s.takeTurn.portWrite Config.offData s.cur)
  rw [← hnext] at htrace hfault' hcache hcfg hanswers hstream hpos hdev
  have hrest : (s.takeTurn.portWrite Config.offData s.cur).rest = s.rest := portWrite_rest _ _ s.takeTurn
  have hok : s.sequencerTurn.fault = none := (hfault'.trans hfault).trans hf
  refine ⟨s.sequencerTurn, step_sequencerTurn ha hok, htrace.trans (portWrite_trace _ _ _), hok,
    hcache.trans (portWrite_cache _ _ _), hcfg.trans (portWrite_cfg _ _ _), hanswers.trans (portWrite_lsrIn _ _ _),
    hstream.trans (portWrite_hostStream _ _ _), hpos.trans (portWrite_hostPos _ _ _), fun hr => ?_, fun b bs hr => ?_,
    hdev ▸ hlcr, hdev ▸ dataWrite_keeps_dll s.cur hd, hdev ▸ portWrite_keeps_dlm s.cur s.takeTurn (by decide),
    fun hm => ?_⟩
  · rw [hnext]
    exact advance_last (hrest.trans hr)
  · rw [hnext, advance_more (hrest.trans hr)]
    exact ⟨rfl, rfl, rfl⟩
  · rw [hdev, dataWrite_dev_reference (s := s.takeTurn) s.cur hm (hd (by simp [hm])) (ht hm)]
    exact ⟨rfl, rfl, rfl⟩

end Sys2Proof.Transmit
end

section
/-!
PROOFS. A busy and a faulted block (60_exceptions.md): what a delivery to a busy block answers, and that a faulted block
takes no step.
-/

namespace Sys2Proof.Machine

/-- Every host command is a delivery with an admission step of its own (R180). -/
theorem exec_command_eq_admission {i : Instr} (hl : i.level = .command) : ∃ f, exec i = admission f := by
  cases i with
  | reset => exact ⟨_, rfl⟩
  | writeByte b => exact ⟨_, rfl⟩
  | write bytes => exact ⟨_, rfl⟩
  | newline => exact ⟨_, rfl⟩
  | _ => simp [Instr.level] at hl

/-- A busy block turns a delivery away, whatever its admission step (R181). -/
theorem admission_busy {f : State → State} {s : State} (hf : s.fault = none) (hp : s.phase ≠ .idle) :
    admission f s = .next (s.raise (.busyViolation s.phase)) := by
  simp [admission, hf, hp]

/-- The host's step on a busy block raises `BusyViolation` before the bytes are looked at (R177, R181). -/
theorem hostStep_busy {s : State} (hpend : s.pending ≠ []) (hp : s.phase ≠ .idle) :
    hostStep s = .next (s.raise (.busyViolation s.phase)) := by
  rw [hostStep, if_neg hpend, if_neg hp]

/-- In a faulted block no agent takes a step (R172). -/
theorem step_halted {s : State} {r : FaultReason} (h : s.fault = some r) : step s = .fault (.halted r) := by
  simp [step, stepNext, h]

end Sys2Proof.Machine
end

section
/-!
PROOFS. The statements of the exceptions (60_exceptions.md).
-/

namespace Sys2Proof.Exceptions

open Sys2Proof.Machine

/-- Settles O14: the host's step sets the fault register, and a set fault register stops the next step. -/
theorem busyDeliveryFaults : Obligations.BusyDeliveryFaults := fun _ hf ha hpend hp =>
  ⟨(step_host hf ha).trans (hostStep_busy hpend hp), step_halted rfl⟩

/-- Settles O15: a host command is a delivery, and a busy block turns every delivery away. -/
theorem busyCommandsFault : Obligations.BusyCommandsFault := by
  intro i s hl hf hp
  obtain ⟨f, hexec⟩ := exec_command_eq_admission hl
  rw [hexec]
  exact admission_busy hf hp

/-- Settles O29: agents and instructions alike look at the fault register first. -/
theorem faultedBlockStops : Obligations.FaultedBlockStops := fun _ _ h =>
  ⟨step_halted h, fun i => exec_halted i h⟩

end Sys2Proof.Exceptions
end
